-- ==== Sys2Proof/Word.lean ====
section
/-!
DEFINITION. The value types of the Streebog hash-context sequencer: the byte, the 32-bit bus word, the
64-byte string `Bytes64`, and the two small sets of names that both the command syntax and the machine
use (rules R6, R7, R9). Nothing here computes: byte order and bit fields are in `Machine/Bytes.lean` and
`Decode.lean`.
-/

namespace Sys2Proof

/-- One byte of a message, a payload or a context register (R9). -/
abbrev Byte := BitVec 8

/-- One word of the 32-bit host bus (R7, R60). -/
abbrev Word := BitVec 32

/-- A sequence of 64 bytes indexed 0..63 (R9): the type of `H`, `BUF`, `DIG` and of every block. -/
abbrev Bytes64 := Vector Byte 64

/-- `zeros(64)` (R9). -/
def zeros64 : Bytes64 := Vector.replicate 64 0x00#8

/-- The digest variant, "exactly two: 256 and 512" (R6, R24). -/
inductive Variant where
  /-- the 512-bit variant, STATUS.VAR = 0 -/
  | v512
  /-- the 256-bit variant, STATUS.VAR = 1 -/
  | v256
  deriving DecidableEq, Repr

/-- The two registers of the window whose writes carry an instruction word (R79): the command register
and the payload register. -/
inductive Port where
  /-- CMD, offset 0x000 -/
  | cmd
  /-- DATA, offset 0x008 -/
  | data
  deriving DecidableEq, Repr

/-- The causes of a rejection (R221), each recorded under its number in STATUS.ERRCODE. -/
inductive ErrorCode where
  /-- 1: the command is not allowed in the current lifecycle state -/
  | eseq
  /-- 2: reserved opcode -/
  | eopc
  /-- 3: a reserved bit of the command word is set -/
  | efield
  /-- 4: a DATA write while nothing is pending -/
  | edata
  /-- 5: UPDATE, LOADPART or FINAL while a command is pending -/
  | ebusy
  deriving DecidableEq, Repr

end Sys2Proof
end

