-- ==== Sys2Proof/Config.lean ====
section
/-!
DEFINITION. What the block takes from outside (R8): the compression transform `G`, the two
initialization constants, the placement `BASE` of the register window, and the free draws a read returns
while a command is pending (R70). The operations of `Machine/Ops.lean` take a `Params`, so that what is
proved of them holds for every transform and every pair of distinct constants; the machine runs on
`Config.params`.
-/

namespace Sys2Proof

/-- The parameters of the block's computation (R8). -/
structure Params where
  /-- the compression transform `G(h, k, m)`: running state, key, block; total and pure (R8, R13) -/
  G : Bytes64 → Bytes64 → Bytes64 → Bytes64
  /-- the initialization constant of the 512-bit variant -/
  iv512 : Bytes64
  /-- the initialization constant of the 256-bit variant -/
  iv256 : Bytes64
  /-- "the two variants use *different* constants" (R8, R123) -/
  iv_ne : iv512 ≠ iv256

/-- The constant a variant starts from: `(V = 0) ? IV512 : IV256` (R120). -/
def Params.iv (P : Params) : Variant → Bytes64
  | .v512 => P.iv512
  | .v256 => P.iv256

/-- The compression transform, OPEN in the spec (R8, D42): no body, so nothing can be proved of its
values (assumption log 1). -/
opaque Config.transform : Bytes64 → Bytes64 → Bytes64 → Bytes64

/-- `IV512`, its default of R8 (assumption log 2). -/
def Config.iv512 : Bytes64 := Vector.replicate 64 0x00#8

/-- `IV256`, its default of R8 (assumption log 2). -/
def Config.iv256 : Bytes64 := Vector.replicate 64 0x01#8

/-- The two defaults differ in every byte (R8, R123). -/
theorem Config.iv_ne : Config.iv512 ≠ Config.iv256 := fun h =>
  absurd (congrArg (fun v : Bytes64 => v[0]) h) (by simp [Config.iv512, Config.iv256])

/-- The parameters the machine runs on. -/
def Config.params : Params where
  G := Config.transform
  iv512 := Config.iv512
  iv256 := Config.iv256
  iv_ne := Config.iv_ne

/-- The free draws (R70, S1): the `k`-th unspecified word a read returns. No body: any value
(assumption log 4). -/
opaque Config.freeWord : Nat → Word

/-- Which 0x200-aligned slot the platform gives the window, OPEN in the spec (R8, D25;
assumption log 6). -/
opaque Config.baseSlot : Nat

/-- `BASE`, 0x200-aligned (R8). -/
def Config.base : Nat := 0x200 * Config.baseSlot

end Sys2Proof
end

