-- ==== Sys2Proof/Machine/Bytes.lean ====
section
/-!
DEFINITION. Byte strings and integers: the conversions `int512` and `bytes512`, the padding of a byte list
to 64 bytes, the overwriting of a run of bytes, and the 32-bit word view of a 64-byte value. Byte order is
decided here and nowhere else (R10, R66, R67: little-endian; assumption log 13). The builders of a `Bytes64` are irreducible,
so that comparing two states does not unfold 64 bytes; they are known by their `getElem` lemmas
(Laws/Bytes.lean).
-/

namespace Sys2Proof.Machine

/-- The unsigned integer of a byte list, byte 0 least significant:
`sum over i of B[i] * 256^i` (R10). -/
def natOfBytes : List Byte → Nat
  | [] => 0
  | b :: bs => b.toNat + 256 * natOfBytes bs

/-- `int512(B)` (R10). -/
@[irreducible] def int512 (B : Bytes64) : BitVec 512 := BitVec.ofNat 512 (natOfBytes B.toList)

/-- `bytes512(x)`: byte `i` holds bits `8i+7 .. 8i` of `x` (R10). -/
@[irreducible] def bytes512 (x : BitVec 512) : Bytes64 := Vector.ofFn fun i => x.extractLsb' (8 * i.val) 8

/-- `d ++ zeros(64 - length(d))`, for at most 64 bytes (R145, R201). -/
@[irreducible] def padZeros (d : List Byte) : Bytes64 := Vector.ofFn fun i => d.getD i.val 0x00#8

/-- `B[start .. start + length(d) - 1] <- d` (R143). -/
@[irreducible] def overwrite (B : Bytes64) (start : Nat) (d : List Byte) : Bytes64 :=
  Vector.ofFn fun i =>
    if start ≤ i.val ∧ i.val < start + d.length then d.getD (i.val - start) 0x00#8 else B[i]

/-- `word(B, j) = B[4j] | B[4j+1] << 8 | B[4j+2] << 16 | B[4j+3] << 24` (R67, R78). -/
def wordAt (B : Bytes64) (j : Fin 16) : Word :=
  (B[4 * j.val]).setWidth 32
    ||| (B[4 * j.val + 1]).setWidth 32 <<< 8
    ||| (B[4 * j.val + 2]).setWidth 32 <<< 16
    ||| (B[4 * j.val + 3]).setWidth 32 <<< 24

end Sys2Proof.Machine
end

