-- ==== Sys2Proof/Machine/State.lean ====
section
/-!
DEFINITION. The state of one instance of the block: the eleven pieces of state of R22, and beside them
three fields of the model's own that stand for the host's side of the bus (`requests`, `replies`) and
for the supply of free values (`draws`). All of it is plain data.
-/

namespace Sys2Proof.Machine

/-- `STATE`, the lifecycle state (R23). -/
inductive Lifecycle where
  /-- no context has been initialised since reset -/
  | idle
  /-- a context has been initialised and not finalised -/
  | active
  /-- FINAL has completed: the digest is valid -/
  | done
  deriving DecidableEq, Repr

/-- The commands that take a payload (R32). -/
inductive PendOp where
  /-- an UPDATE whose payload is not complete -/
  | update
  /-- a LOADPART whose payload is not complete -/
  | loadpart
  deriving DecidableEq, Repr

/-- A pending command `(op, count, collected bytes)` (R22, R32). -/
structure Pending where
  /-- the command -/
  op : PendOp
  /-- how many payload bytes it takes -/
  count : Nat
  /-- the payload bytes pushed so far, first byte first -/
  collected : List Byte
  deriving DecidableEq, Repr

/-- How wide a host access is; only 32-bit accesses have a meaning (R62). -/
inductive AccessWidth where
  /-- 8-bit -/
  | w8
  /-- 16-bit -/
  | w16
  /-- 32-bit -/
  | w32
  /-- 64-bit -/
  | w64
  /-- a burst -/
  | burst
  deriving DecidableEq, Repr

/-- One move of the host (R261): a register read or write at an offset of the window, or the assertion
of reset. -/
inductive Access where
  /-- a read of the register at `off` -/
  | read (width : AccessWidth) (off : Nat)
  /-- a write of `value` to the register at `off` (only a 32-bit write has a meaning, so only its value
  is held; assumption log 10) -/
  | write (width : AccessWidth) (off : Nat) (value : Word)
  /-- the block's reset input, asserted between two accesses (R250, R251) -/
  | reset
  deriving DecidableEq, Repr

/-- The faults of the machine: NONE. "The block has no trap" (R220) and no unrecoverable condition
(R227); a rejection is an ordinary next state with an error code (R222). No one raises a fault, so the
type has no constructor (assumption log 12). -/
inductive Fault
  deriving DecidableEq, Repr

/-- Why the model takes no step. -/
inductive Refusal where
  /-- raised only by an arm of `exec` for an instruction without a meaning; safe. Every arm has one. -/
  | notModelled (mnemonic : String)
  /-- raised by `performAccess` for an access that is not a 32-bit access at a multiple of 4 in
  0x000..0x1FC: such an access "has no meaning in this spec: the model refuses it" (R62, S2); safe. -/
  | undefinedAccess
  /-- raised by `step` when the host has issued no further access: the block has "no step of its own"
  (R152, R260); safe. -/
  | noHostAccess
  deriving DecidableEq, Repr

/-- The state of one instance (R22) and of the host's side of its bus. -/
structure State where
  /-- `STATE` (R23) -/
  lifecycle : Lifecycle
  /-- `VAR`, the variant (R24) -/
  var : Variant
  /-- `H`, the running state (R25) -/
  h : Bytes64
  /-- `N`, the committed counter, an integer 0..2^512-1 (R26) -/
  n : BitVec 512
  /-- `SIGMA`, the checksum accumulator, an integer 0..2^512-1 (R28) -/
  sigma : BitVec 512
  /-- `BUF`, the partial buffer (R29) -/
  buf : Bytes64
  /-- `PLEN`, the number of valid bytes in `BUF`, 0..63 (R29; assumption log 9) -/
  plen : Fin 64
  /-- `DIG`, the digest register (R30) -/
  dig : Bytes64
  /-- `ERR`, the error flag (R31) -/
  err : Bool
  /-- `ERRCODE`, an integer 0..15 (R31) -/
  errcode : BitVec 4
  /-- `PEND`, the pending command (R32) -/
  pend : Option Pending
  /-- MODEL'S OWN: the accesses the host has issued and the block has not performed yet, in issue order
  (R72; assumption log 5) -/
  requests : List Access
  /-- MODEL'S OWN: the words the block has answered to the host's reads, oldest first (assumption log 5) -/
  replies : List Word
  /-- MODEL'S OWN: how many free values have been drawn (R70; assumption log 4) -/
  draws : Nat
  deriving DecidableEq, Repr

/-- The machine right after reset (R37, R250), with a host that has issued nothing. -/
def State.reset : State where
  lifecycle := .idle
  var := .v512
  h := zeros64
  n := 0#512
  sigma := 0#512
  buf := zeros64
  plen := 0
  dig := zeros64
  err := false
  errcode := 0#4
  pend := none
  requests := []
  replies := []
  draws := 0

end Sys2Proof.Machine
end

