-- ==== Sys2Proof/Machine/Flags.lean ====
section
/-!
DEFINITION. Everything the host sees that is computed from the state and not stored: BUSY, REMAIN, PENDOP,
DVALID, the length counter view LEN, the numbers of the error codes and of the lifecycle states, and the
STATUS word (R27, R30 to R34, R38).
-/

namespace Sys2Proof.Machine

/-- The number a rejection is recorded under (R221). -/
def errorNumber : ErrorCode → BitVec 4
  | .eseq => 1#4
  | .eopc => 2#4
  | .efield => 3#4
  | .edata => 4#4
  | .ebusy => 5#4

/-- STATUS encodes IDLE 0b00, ACTIVE 0b01, DONE 0b10 (R23). -/
def lifecycleBits : Lifecycle → BitVec 2
  | .idle => 0b00#2
  | .active => 0b01#2
  | .done => 0b10#2

/-- STATUS encodes V512 as 0 and V256 as 1 (R24). -/
def variantBit : Variant → BitVec 1
  | .v512 => 0#1
  | .v256 => 1#1

/-- The opcode of a pending command, 2 or 4 (R32). -/
def pendOpcode : PendOp → BitVec 4
  | .update => 2#4
  | .loadpart => 4#4

/-- `BUSY = 1` while a command is pending (R32). -/
def State.busy (s : State) : Bool := s.pend.isSome

/-- The payload bytes a pending command still needs: `count - length(collected)` (R32). -/
def Pending.remain (p : Pending) : Nat := p.count - p.collected.length

/-- `REMAIN`, 0 with nothing pending (R32). -/
def State.remain (s : State) : Nat :=
  match s.pend with
  | none => 0
  | some p => p.remain

/-- `PENDOP`, 0 with nothing pending (R32). -/
def State.pendop (s : State) : BitVec 4 :=
  match s.pend with
  | none => 0#4
  | some p => pendOpcode p.op

/-- `DVALID` is 1 exactly when `STATE = DONE` (R30). -/
def State.dvalid (s : State) : Bool := decide (s.lifecycle = .done)

/-- `LEN = N +512 zext_512(8 * PLEN)` (R27). -/
def State.len (s : State) : BitVec 512 := s.n + BitVec.ofNat 512 (8 * s.plen.val)

/-- A field of STATUS at its lowest bit. -/
def statusField {k : Nat} (field : BitVec k) (lo : Nat) : Word := field.setWidth 32 <<< lo

/-- The STATUS word with a given PLEN field (R33): BUSY [0], STATE [2:1], VAR [3], DVALID [4], ERR [5],
ERRCODE [11:8], PLEN [21:16], PENDOP [27:24], every other bit 0. -/
def statusWord (plenField : BitVec 6) (s : State) : Word :=
  statusField (BitVec.ofBool s.busy) 0
    ||| statusField (lifecycleBits s.lifecycle) 1
    ||| statusField (variantBit s.var) 3
    ||| statusField (BitVec.ofBool s.dvalid) 4
    ||| statusField (BitVec.ofBool s.err) 5
    ||| statusField s.errcode 8
    ||| statusField plenField 16
    ||| statusField s.pendop 24

end Sys2Proof.Machine
end

