-- ==== Sys2Proof/Machine/Ops.lean ====
section
/-!
DEFINITION. The operations the instructions share: recording an error (the block's one exception
mechanism, R220 to R225; there is no trap and no return from one), the acceptance checks of a command, the
compression of a block, absorption in its three phases and in its byte-serial form, loading the partial
buffer, padding, finalization and the variant mux.
-/

namespace Sys2Proof.Machine

/-! ### Rejection -/

/-- `raise Error(code)` (R222): the first error is kept, nothing else changes, and the access ends. -/
def raiseError (e : ErrorCode) (s : State) : State :=
  if s.err = false then { s with err := true, errcode := errorNumber e } else s

/-- The checks UPDATE, LOADPART and FINAL make after decoding (R98, R223): EBUSY while a command is
pending, then ESEQ unless the context is ACTIVE; then the command's own effect. -/
def whenAccepted (effect : State → State) (s : State) : State :=
  if s.busy then raiseError .ebusy s
  else if s.lifecycle ≠ .active then raiseError .eseq s
  else effect s

/-! ### Absorption -/

/-- `CompressBlock(m)` (R146): the three writes use the values from before the call. -/
def compressBlock (P : Params) (m : Bytes64) (s : State) : State :=
  { s with
    h := P.G s.h (bytes512 s.n) m
    n := s.n + 512#512
    sigma := s.sigma + int512 m }

/-- `BUF <- zeros(64); PLEN <- 0` (R143). -/
def emptyBuffer (s : State) : State := { s with buf := zeros64, plen := 0 }

/-- `LoadPartial(d)` (R201), for at most 63 bytes. It is also how phase 3 keeps a remainder (R145). -/
def loadPartial (d : List Byte) (s : State) : State :=
  { s with buf := padZeros d, plen := Fin.ofNat 64 d.length }

/-- Phase 2 (R144): `count` whole blocks, each taken straight from the front of the input. -/
def absorbBlocks (P : Params) : Nat → List Byte → State → State
  | 0, _, s => s
  | count + 1, d, s => absorbBlocks P count (d.drop 64) (compressBlock P (padZeros (d.take 64)) s)

/-- Phase 3 (R145): a remainder of 1 to 63 bytes is kept in the partial buffer. -/
def keepRemainder (r : List Byte) (s : State) : State :=
  if r.length > 0 then loadPartial r s else s

/-- Phases 2 and 3, from an empty partial buffer: the loop of R144 runs while 64 bytes are left. -/
def absorbAligned (P : Params) (d : List Byte) (s : State) : State :=
  keepRemainder (d.drop (64 * (d.length / 64))) (absorbBlocks P (d.length / 64) d s)

/-- `Absorb(d)` (R142): phase 1, the top-up (R143), then phases 2 and 3. -/
def absorb (P : Params) (d : List Byte) (s : State) : State :=
  if s.plen.val > 0 then
    let t := min (64 - s.plen.val) d.length
    let buf := overwrite s.buf s.plen.val (d.take t)
    if s.plen.val + t = 64 then
      absorbAligned P (d.drop t) (emptyBuffer (compressBlock P buf s))
    else
      { s with buf := buf, plen := Fin.ofNat 64 (s.plen.val + t) }
  else absorbAligned P d s

/-- One turn of the byte-serial loop (R148). -/
def absorbByte (P : Params) (s : State) (b : Byte) : State :=
  let buf := s.buf.set s.plen.val b
  if s.plen.val + 1 = 64 then emptyBuffer (compressBlock P buf s)
  else { s with buf := buf, plen := Fin.ofNat 64 (s.plen.val + 1) }

/-- `AbsorbSerial(d)` (R148), which "leaves the same state". -/
def absorbSerial (P : Params) (d : List Byte) (s : State) : State := d.foldl (absorbByte P) s

/-! ### Payload -/

/-- What the last payload byte of a command performs (R141). -/
def completePending (P : Params) (op : PendOp) (d : List Byte) (s : State) : State :=
  match op with
  | .update => absorb P d s
  | .loadpart => loadPartial d s

/-- `DataPush(b)` (R141). -/
def dataPush (P : Params) (b : Byte) (s : State) : State :=
  match s.pend with
  | none => raiseError .edata s
  | some p =>
    let col := p.collected ++ [b]
    if col.length < p.count then { s with pend := some { p with collected := col } }
    else completePending P p.op col { s with pend := none }

/-! ### Finalization -/

/-- `Pad(BUF, PLEN) = BUF[0 .. PLEN - 1] ++ [0x01] ++ zeros(63 - PLEN)` (R171). -/
@[irreducible] def pad (B : Bytes64) (plen : Nat) : Bytes64 :=
  Vector.ofFn fun i =>
    if i.val < plen then B[i] else if i.val = plen then 0x01#8 else 0x00#8

/-- `Finalize(m)` (R172): every right-hand side uses the values from before. -/
def finalize (P : Params) (m : Bytes64) (s : State) : State :=
  let h1 := P.G s.h (bytes512 s.n) m
  let n1 := s.n + BitVec.ofNat 512 (8 * s.plen.val)
  let s1 := s.sigma + int512 m
  let h2 := P.G h1 zeros64 (bytes512 n1)
  let h3 := P.G h2 zeros64 (bytes512 s1)
  { s with h := h3, n := n1, sigma := s1, buf := zeros64, plen := 0 }

/-- `h[32 .. 63] ++ zeros(32)` (R173). -/
@[irreducible] def upperHalf (h : Bytes64) : Bytes64 :=
  Vector.ofFn fun i => if hi : i.val < 32 then h[i.val + 32] else 0x00#8

/-- `Window(VAR, h)`, the variant mux (R173). -/
def window (v : Variant) (h : Bytes64) : Bytes64 :=
  match v with
  | .v512 => h
  | .v256 => upperHalf h

/-- The effect of an accepted FINAL (R170). -/
def finalDigest (P : Params) (s : State) : State :=
  let t := finalize P (pad s.buf s.plen.val) s
  { t with dig := window t.var t.h, lifecycle := .done }

/-! ### Initialisation and reset -/

/-- The effect of INIT (R120): every context field from `v` alone; ERR and ERRCODE unchanged. -/
def initContext (P : Params) (v : Variant) (s : State) : State :=
  { s with
    pend := none
    var := v
    h := P.iv v
    n := 0#512
    sigma := 0#512
    buf := zeros64
    plen := 0
    dig := zeros64
    lifecycle := .active }

/-- The block's reset input (R250): every piece of the block's state to its reset value; what the host
has issued and read is the host's and stays. -/
def blockReset (s : State) : State :=
  { State.reset with requests := s.requests, replies := s.replies, draws := s.draws }

end Sys2Proof.Machine
end

