-- ==== Sys2Proof/Machine/Final.lean ====
section
/-!
DEFINITION. The meaning of FINAL (spec/42_final.md).
-/

namespace Sys2Proof.Machine

/-- FINAL (R170): pad, finalize, select the digest, and become DONE. -/
def execFinal (s : State) : Host.Outcome State Fault Refusal :=
  .next (whenAccepted (finalDigest Config.params) s)

end Sys2Proof.Machine
end

