-- ==== Sys2Proof/Machine/Init.lean ====
section
/-!
DEFINITION. The meanings of INIT and CLRERR (spec/40_init.md).
-/

namespace Sys2Proof.Machine

/-- INIT (R120): accepted in every lifecycle state and while BUSY. -/
def execInit (variant : Variant) (s : State) : Host.Outcome State Fault Refusal :=
  .next (initContext Config.params variant s)

/-- CLRERR (R125): accepted in every lifecycle state and while BUSY; a pending command stays pending. -/
def execClrerr (s : State) : Host.Outcome State Fault Refusal :=
  .next { s with err := false, errcode := 0#4 }

end Sys2Proof.Machine
end

