-- ==== Sys2Proof/Machine/Selftest.lean ====
section
/-!
DEFINITION. The meaning of LOADPART (spec/43_selftest.md).
-/

namespace Sys2Proof.Machine

/-- LOADPART (R200): `count` bytes for the partial buffer become pending; a count of 0 empties the
buffer at once. -/
def execLoadpart (count : Nat) (s : State) : Host.Outcome State Fault Refusal :=
  .next (whenAccepted (fun s =>
    if count = 0 then loadPartial [] s
    else { s with pend := some { op := .loadpart, count := count, collected := [] } }) s)

end Sys2Proof.Machine
end

