-- ==== Sys2Proof/Syntax.lean ====
section
/-!
DEFINITION. The instruction set: one constructor per row of spec/opcode_table.json, in its order. The
first five are the command words a host writes to CMD (R94), the sixth is the word a host writes to DATA
(R99). The block fetches nothing (R75): an instruction is what one such host write asks for.
-/

namespace Sys2Proof

/-- The instructions of the block. -/
inductive Instr where
  /-- INIT: initialise the context for a variant (R120) -/
  | init (variant : Variant)
  /-- UPDATE: accept a chunk of `count` message bytes, COUNT24 (R140) -/
  | update (count : Nat)
  /-- FINAL: pad, finalize and select the digest (R170) -/
  | final
  /-- LOADPART: load the partial buffer with `count` bytes, COUNT6 (R200) -/
  | loadpart (count : Nat)
  /-- CLRERR: clear the error report (R125) -/
  | clrerr
  /-- DATA: the word written to DATA, whose bits [7:0] are the payload byte (R99, R141) -/
  | data (word : Word)
  deriving DecidableEq, Repr

end Sys2Proof
end

