-- ==== Sys2Proof/WellFormed.lean ====
section
/-!
DEFINITION. Which instructions the encoding can express: an UPDATE count has 24 bits and a LOADPART
count is at most 63 (R7, R91). Every other operand is in range by its type.
-/

namespace Sys2Proof

/-- The number of values of COUNT24 (R91). -/
def count24Limit : Nat := 16777216

/-- The number of values of COUNT6 (R91). -/
def count6Limit : Nat := 64

/-- The operand checks of each instruction (R91, R92). -/
def Instr.wellFormed : Instr → Bool
  | .init _ => true
  | .update count => decide (count < count24Limit)
  | .final => true
  | .loadpart count => decide (count < count6Limit)
  | .clrerr => true
  | .data _ => true

/-- An instruction some word encodes. -/
abbrev Instr.WellFormed (i : Instr) : Prop := i.wellFormed = true

end Sys2Proof
end

