-- ==== Sys2Proof/Decode.lean ====
section
/-!
DEFINITION. The decoder, total on all 2^32 words and rejecting by name (R98), and after it the encoder.
A word means what it means because of the register it is written to: `Port.cmd` takes the five command
words (R94), `Port.data` takes every word (R99).
-/

namespace Sys2Proof

/-- OP = w[3:0] (R92). -/
def opField (w : Word) : BitVec 4 := w.extractLsb' 0 4

/-- V = w[4] (R92). -/
def vField (w : Word) : BitVec 1 := w.extractLsb' 4 1

/-- COUNT24 = w[31:8], a number of bytes (R92). -/
def count24Field (w : Word) : Nat := (w.extractLsb' 8 24).toNat

/-- COUNT6 = w[13:8], a number of bytes (R92). -/
def count6Field (w : Word) : Nat := (w.extractLsb' 8 6).toNat

/-- The payload byte of a word written to DATA, bits [7:0] (R69, R99). -/
def dataByte (w : Word) : Byte := w.extractLsb' 0 8

/-- VAR = (V = 0) ? V512 : V256 (R92). -/
def variantOfV (v : BitVec 1) : Variant := if v = 0#1 then .v512 else .v256

/-- The V bit of a variant, the other way round of `variantOfV`. -/
def vOfVariant : Variant → BitVec 1
  | .v512 => 0#1
  | .v256 => 1#1

/-- RZ(OP), the bits that must be 0 (R93): `none` for a reserved opcode (R95). -/
def reservedZero (op : BitVec 4) : Option Word :=
  if op = 0x1#4 then some 0xFFFFFFE0#32
  else if op = 0x2#4 then some 0x000000F0#32
  else if op = 0x3#4 then some 0xFFFFFFF0#32
  else if op = 0x4#4 then some 0xFFFFC0F0#32
  else if op = 0x5#4 then some 0xFFFFFFF0#32
  else none

/-- The instruction of a word whose opcode is defined and whose reserved bits are 0 (R94, R98). -/
def commandOf (w : Word) : Instr :=
  if opField w = 0x1#4 then .init (variantOfV (vField w))
  else if opField w = 0x2#4 then .update (count24Field w)
  else if opField w = 0x3#4 then .final
  else if opField w = 0x4#4 then .loadpart (count6Field w)
  else .clrerr

/-- Decoding a word written to CMD: EOPC, then EFIELD, then the command (R95, R96, R98). -/
def decodeCommand (w : Word) : Except ErrorCode Instr :=
  match reservedZero (opField w) with
  | none => .error .eopc
  | some rz => if w &&& rz ≠ 0#32 then .error .efield else .ok (commandOf w)

/-- Decoding a word written to DATA: every word is a payload word (R99). -/
def decodeData (w : Word) : Instr := .data w

/-- Decoding a word by the register it is written to. -/
def decode (p : Port) (w : Word) : Except ErrorCode Instr :=
  match p with
  | .cmd => decodeCommand w
  | .data => .ok (decodeData w)

/-- The register an instruction's word is written to (the table's "format"). -/
def Instr.port : Instr → Port
  | .init _ => .cmd
  | .update _ => .cmd
  | .final => .cmd
  | .loadpart _ => .cmd
  | .clrerr => .cmd
  | .data _ => .data

/-- The word of an instruction, as R100 writes it: `INIT` 0x00000001 or 0x00000011, `UPDATE n`
`(n << 8) | 0x2`, `LOADPART k` `(k << 8) | 0x4`. -/
def encode : Instr → Word
  | .init v => (vOfVariant v).setWidth 32 <<< 4 ||| 0x1#32
  | .update n => BitVec.ofNat 32 n <<< 8 ||| 0x2#32
  | .final => 0x3#32
  | .loadpart k => BitVec.ofNat 32 k <<< 8 ||| 0x4#32
  | .clrerr => 0x5#32
  | .data w => w

/-! ### The opcode table's numbering

The table lists a word's bits without the register it is written to. Its DATA row fixes no bit, so it
matches every word; the five CMD rows fix theirs. The table is read with the rows that fix bits first
(assumption log 3). -/

/-- The 32-bit word of a table row of `nbits` bits: bit 0 is the least significant bit. -/
def tableWord (nbits w : Nat) : Word := BitVec.ofNat 32 (w % 2 ^ nbits)

/-- The register a table word is written to: CMD where a CMD row matches, DATA otherwise. -/
def tablePort (w : Word) : Port :=
  match decodeCommand w with
  | .ok _ => .cmd
  | .error _ => .data

/-- The instruction the decoder reads from a table row's word. -/
def decodeTableWord (nbits w : Nat) : Option Instr :=
  let word := tableWord nbits w
  match decode (tablePort word) word with
  | .ok i => some i
  | .error _ => none

end Sys2Proof
end

