-- ==== Sys2Proof/Machine/Update.lean ====
section
/-!
DEFINITION. The meanings of UPDATE and DATA (spec/41_update.md).
-/

namespace Sys2Proof.Machine

/-- UPDATE (R140): a chunk of `count` bytes becomes pending; a count of 0 is a no-op. -/
def execUpdate (count : Nat) (s : State) : Host.Outcome State Fault Refusal :=
  .next (whenAccepted (fun s =>
    if count = 0 then s else { s with pend := some { op := .update, count := count, collected := [] } }) s)

/-- DATA (R141): bits [7:0] of the word are pushed, bits [31:8] are ignored (R99). -/
def execData (word : Word) (s : State) : Host.Outcome State Fault Refusal :=
  .next (dataPush Config.params (dataByte word) s)

end Sys2Proof.Machine
end

