-- ==== Sys2Proof/Machine/Dispatch.lean ====
section
/-!
DEFINITION. One arm per instruction.
-/

namespace Sys2Proof.Machine

def exec (i : Instr) (s : State) : Host.Outcome State Fault Refusal :=
  match i with
  | .init variant => Sys2Proof.Machine.execInit variant s
  | .update count => Sys2Proof.Machine.execUpdate count s
  | .final => Sys2Proof.Machine.execFinal s
  | .loadpart count => Sys2Proof.Machine.execLoadpart count s
  | .clrerr => Sys2Proof.Machine.execClrerr s
  | .data word => Sys2Proof.Machine.execData word s

end Sys2Proof.Machine
end

