-- ==== Sys2Proof/Machine/Operands.lean ====
section
/-!
DEFINITION. The register window: the map from offsets to registers (R61), which accesses are defined
(R62), and what a read of each register returns (R33, R34, R63, R64, R70, R78).
-/

namespace Sys2Proof.Machine

/-- The registers of the window (R61). -/
inductive Reg where
  /-- CMD, write-only -/
  | cmd
  /-- STATUS, read-only -/
  | status
  /-- DATA, write-only -/
  | data
  /-- REMAIN, read-only -/
  | remain
  /-- LENj -/
  | len (j : Fin 16)
  /-- DIGj -/
  | dig (j : Fin 16)
  /-- Hj -/
  | h (j : Fin 16)
  /-- Nj -/
  | n (j : Fin 16)
  /-- SIGMAj -/
  | sigma (j : Fin 16)
  /-- BUFj -/
  | buf (j : Fin 16)
  /-- every offset the map does not list (R63) -/
  | reserved
  deriving DecidableEq, Repr

/-- The word number of an offset in a 16-word value that starts at `start`. -/
def wordIndex (start off : Nat) : Fin 16 := Fin.ofNat 16 ((off - start) / 4)

/-- The register at an offset (R61). -/
def regAt (off : Nat) : Reg :=
  if off = 0x000 then .cmd
  else if off = 0x004 then .status
  else if off = 0x008 then .data
  else if off = 0x00C then .remain
  else if 0x040 ≤ off ∧ off < 0x080 then .len (wordIndex 0x040 off)
  else if 0x080 ≤ off ∧ off < 0x0C0 then .dig (wordIndex 0x080 off)
  else if 0x100 ≤ off ∧ off < 0x140 then .h (wordIndex 0x100 off)
  else if 0x140 ≤ off ∧ off < 0x180 then .n (wordIndex 0x140 off)
  else if 0x180 ≤ off ∧ off < 0x1C0 then .sigma (wordIndex 0x180 off)
  else if 0x1C0 ≤ off ∧ off < 0x200 then .buf (wordIndex 0x1C0 off)
  else .reserved

/-- The offset of a register (R61); a reserved offset, 0x010, for `reserved`. -/
def regOffset : Reg → Nat
  | .cmd => 0x000
  | .status => 0x004
  | .data => 0x008
  | .remain => 0x00C
  | .len j => 0x040 + 4 * j.val
  | .dig j => 0x080 + 4 * j.val
  | .h j => 0x100 + 4 * j.val
  | .n j => 0x140 + 4 * j.val
  | .sigma j => 0x180 + 4 * j.val
  | .buf j => 0x1C0 + 4 * j.val
  | .reserved => 0x010

/-- The offset of the register an instruction's word is written to (R79). -/
def portOffset : Port → Nat
  | .cmd => regOffset .cmd
  | .data => regOffset .data

/-- An access that has a meaning: 32 bits wide, at a multiple of 4 within 0x000..0x1FC (R62). -/
def definedAccess (width : AccessWidth) (off : Nat) : Bool :=
  decide (width = .w32) && decide (off % 4 = 0) && decide (off ≤ 0x1FC)

/-- The platform's address decode, `off = address - BASE` (R60): `none` outside the window. -/
def offsetOf (address : Nat) : Option Nat :=
  if Config.base ≤ address ∧ address < Config.base + 0x200 then some (address - Config.base) else none

/-- The registers that are unspecified while BUSY, as a whole or in a field (R70). -/
def unspecifiedWhileBusy : Reg → Bool
  | .status => true
  | .len _ => true
  | .h _ => true
  | .n _ => true
  | .sigma _ => true
  | .buf _ => true
  | .cmd => false
  | .data => false
  | .remain => false
  | .dig _ => false
  | .reserved => false

/-- Whether a read of `r` draws a free value (R70, R78). -/
def readDraws (s : State) (r : Reg) : Bool := s.busy && unspecifiedWhileBusy r

/-- `draw if BUSY` (R78): the draw while a command is pending, the value otherwise. -/
def orDraw (s : State) (draw value : Word) : Word := if s.busy then draw else value

/-- The PLEN field of STATUS: `PLEN`, or a draw of its 6 bits while BUSY (R33, R70). -/
def plenField (s : State) (draw : Word) : BitVec 6 :=
  if s.busy then draw.extractLsb' 0 6 else BitVec.ofNat 6 s.plen.val

/-- What a read of register `r` returns, with `draw` the free value it may need (R78). -/
def readReg (s : State) (draw : Word) (r : Reg) : Word :=
  match r with
  | .status => statusWord (plenField s draw) s
  | .remain => (BitVec.ofNat 24 s.remain).setWidth 32
  | .len j => orDraw s draw (wordAt (bytes512 s.len) j)
  | .dig j => wordAt s.dig j
  | .h j => orDraw s draw (wordAt s.h j)
  | .n j => orDraw s draw (wordAt (bytes512 s.n) j)
  | .sigma j => orDraw s draw (wordAt (bytes512 s.sigma) j)
  | .buf j => orDraw s draw (wordAt s.buf j)
  | .cmd => 0#32
  | .data => 0#32
  | .reserved => 0#32

/-- `RegRead(off)` (R78) in a state, with the state's next free value as its draw. -/
def regRead (s : State) (off : Nat) : Word := readReg s (Config.freeWord s.draws) (regAt off)

end Sys2Proof.Machine
end

