-- ==== Sys2Proof/Machine/Bus.lean ====
section
/-!
DEFINITION. What a host access does: `Command(w)` (R98), `RegWrite` and `RegRead` (R78, R79), and the
performing of one access (R62, R71, R250). A step of the machine is one access (R259).
-/

namespace Sys2Proof.Machine

/-- `Command(w)` (R98): a word that does not decode raises its error and has no other effect. -/
def command (w : Word) (s : State) : Host.Outcome State Fault Refusal :=
  match decodeCommand w with
  | .error e => .next (raiseError e s)
  | .ok i => exec i s

/-- `RegWrite(off, v)` (R79): a write to a read-only or reserved offset is ignored (R63, R64). -/
def regWrite (off : Nat) (v : Word) (s : State) : Host.Outcome State Fault Refusal :=
  match regAt off with
  | .cmd => command v s
  | .data => exec (decodeData v) s
  | .status => .next s
  | .remain => .next s
  | .len _ => .next s
  | .dig _ => .next s
  | .h _ => .next s
  | .n _ => .next s
  | .sigma _ => .next s
  | .buf _ => .next s
  | .reserved => .next s

/-- The step of a register read (R261, "a step with a draw while BUSY"): the word is answered to the
host, and no piece of the block's state changes (R65). -/
def hostRead (off : Nat) (s : State) : State :=
  { s with
    replies := s.replies ++ [regRead s off]
    draws := if readDraws s (regAt off) then s.draws + 1 else s.draws }

/-- One host access, performed as one indivisible step (R71); an access without a meaning is refused
(R62). -/
def performAccess (a : Access) (s : State) : Host.Outcome State Fault Refusal :=
  match a with
  | .read width off =>
    if definedAccess width off then .next (hostRead off s) else .refused .undefinedAccess
  | .write width off value =>
    if definedAccess width off then regWrite off value s else .refused .undefinedAccess
  | .reset => .next (blockReset s)

/-- The host write that carries a word to a register that takes instruction words. -/
def instrAccess (p : Port) (w : Word) : Access := .write .w32 (portOffset p) w

/-- The next access of the host, if it has issued one, and the state without it; accesses are performed
in issue order (R72). -/
def nextAccess (s : State) : Option (Access × State) :=
  match s.requests with
  | [] => none
  | a :: rest => some (a, { s with requests := rest })

end Sys2Proof.Machine
end

