-- ==== Sys2Proof/Machine/Step.lean ====
section
/-!
DEFINITION. The step: the block performs the next access the host has issued, and has no step of its own
(R71, R72, R152, R259; assumption log 11).
-/

namespace Sys2Proof.Machine

/-- One step of the machine. -/
def step (s : State) : Host.Outcome State Fault Refusal :=
  match nextAccess s with
  | none => .refused .noHostAccess
  | some (a, s') => performAccess a s'

/-- The state in which the host's next access is the write of a table row's word to its register
(assumption log 3, 5). -/
def State.withFetchWord (s : State) (nbits w : Nat) : State :=
  { s with requests := instrAccess (tablePort (tableWord nbits w)) (tableWord nbits w) :: s.requests }

end Sys2Proof.Machine
end

