-- ==== Sys2Proof/Machine/HostProgram.lean ====
section
/-!
DEFINITION. Host programs as lists of accesses: the text form of R100 and the pseudo-commands of R101,
the self-test (R202 to R204) and the benchmark stream (R205). The host is outside the block; these
functions only say which accesses each line of its program stands for.
-/

namespace Sys2Proof.Machine

/-! ### One line, one access (R100) -/

/-- `CMD 0xHHHHHHHH`: the literal word, for illegal words too. -/
def lineCmd (w : Word) : Access := instrAccess .cmd w

/-- `INIT`, `UPDATE n`, `FINAL`, `LOADPART k`, `CLRERR`, and `DATA` with a word: the write of the
instruction's word. -/
def lineInstr (i : Instr) : Access := instrAccess i.port (encode i)

/-- `DATA 0xHH`: the word 0x000000HH. -/
def lineData (b : Byte) : Access := instrAccess .data (b.setWidth 32)

/-- `READ NAME`. -/
def lineRead (r : Reg) : Access := .read .w32 (regOffset r)

/-! ### Pseudo-commands (R101) -/

/-- `UPDATE x"..."`: the command and its payload, first byte first. -/
def updateLines (d : List Byte) : List Access := lineInstr (.update d.length) :: d.map lineData

/-- `LOADPART x"..."`. -/
def loadpartLines (d : List Byte) : List Access := lineInstr (.loadpart d.length) :: d.map lineData

/-- The largest count of one UPDATE (R7). -/
def maxChunk : Nat := 16777215

/-- A message fed as several UPDATE commands: `more` full chunks, then the rest (R14;
assumption log 14). -/
def feedLines : Nat → List Byte → List Access
  | 0, d => updateLines d
  | more + 1, d => updateLines (d.take maxChunk) ++ feedLines more (d.drop maxChunk)

/-- A message of any length, in as few UPDATE commands as its length allows (R14). -/
def messageLines (d : List Byte) : List Access := feedLines ((d.length - 1) / maxChunk) d

/-- `READ LEN`, `READ DIG`, ...: the reads of word 0 to word 15 of a value. -/
def readLines (r : Fin 16 → Reg) : List Access := (List.finRange 16).map fun j => lineRead (r j)

/-- `HASH v, x"..."`: INIT, UPDATE, FINAL, READ DIG. -/
def hashLines (v : Variant) (d : List Byte) : List Access :=
  [lineInstr (.init v)] ++ messageLines d ++ [lineInstr .final] ++ readLines .dig

/-! ### The self-test (R202 to R204) -/

/-- `M1[i] = 0x30 + (i mod 10)`, `i = 0..62` (R203). -/
def selfTestVector : List Byte := (List.range 63).map fun i => BitVec.ofNat 8 (0x30 + i % 10)

/-- One half of the self-test: INIT, LOADPART of M1, FINAL, and `words` reads of DIG. -/
def selfTestHalf (v : Variant) (words : Nat) : List Access :=
  [lineInstr (.init v)] ++ loadpartLines selfTestVector ++ [lineInstr .final]
    ++ (readLines .dig).take words

/-- `SELFTEST` (R202): 512 first, with 16 reads, then 256, with 8. -/
def selfTestLines : List Access := selfTestHalf .v512 16 ++ selfTestHalf .v256 8

/-- `D512` (R204), which holds only for the GOST transform (assumption log 7). -/
def selfTestDigest512 : Bytes64 := bytes512
  0x1b54d01a4af5b9d5cc3d86d68d285462b19abc2475222f35c085122be4ba1ffa00ad30f8767b3a82384c6574f024c311e2a481332b08ef7f41797891c1646f48#512

/-- `D256` (R204) in the low 32 bytes, which holds only for the GOST transform (assumption log 7). -/
def selfTestDigest256 : Bytes64 := bytes512
  0x9d151eefd8590b89daa6ba6cb74af9275dd051026bb149a452fd84e5e57b5500#512

/-- The self-test passes when the 24 words it read match both digests bit for bit (R202). -/
def selfTestPasses (replies : List Word) : Bool :=
  decide (replies = (List.finRange 16).map (wordAt selfTestDigest512)
    ++ ((List.finRange 16).map (wordAt selfTestDigest256)).take 8)

/-! ### The benchmark (R205) -/

/-- The benchmark, with its open parameters as arguments (R8, R205): `blocks` chunks of `blockBytes` bytes.
DESIGN CHOICE: the spec does not say what the argument of BENCH_PATTERN is; here it is the byte's position
in the whole stream, so byte `j` of block `k` is `pattern (k * blockBytes + j)`. A pattern that starts
again in every block is `fun i => p (i % blockBytes)` (assumption log 15). -/
def benchmarkLines (blocks blockBytes : Nat) (pattern : Nat → Byte) : List Access :=
  [lineInstr (.init .v512)]
    ++ (List.range blocks).flatMap (fun k =>
      messageLines ((List.range blockBytes).map fun j => pattern (k * blockBytes + j)))
    ++ [lineInstr .final] ++ readLines .dig

/-! ### Running a program -/

/-- A state whose host goes on to issue the accesses of a program (assumption log 5). -/
def withProgram (program : List Access) (s : State) : State :=
  { s with requests := s.requests ++ program }

/-- The host access at a bus address, as the platform decodes it (R60): a 32-bit read. -/
def readAddress (address : Nat) : Option Access := (offsetOf address).map (Access.read .w32)

/-- The host access at a bus address, as the platform decodes it (R60): a 32-bit write. -/
def writeAddress (address : Nat) (value : Word) : Option Access :=
  (offsetOf address).map fun off => .write .w32 off value

end Sys2Proof.Machine
end

