-- ==== Sys2Proof/Safety.lean ====
section
/-!
DEFINITION. The terms the claims are stated in: the invariants of R36 and the model's own beside them, a
complete run (R260), which states agree on the block's own state, and the reference description of a
hash computation that R146, R151 and R171 to R173 give.
-/

namespace Sys2Proof.Machine

/-! ### Invariants -/

/-- The unused bytes of the partial buffer are zero: `BUF[i] = 0` for `i >= PLEN` (R29, R36 item 1). -/
def State.ZeroTail (s : State) : Prop := ∀ i : Fin 64, s.plen ≤ i → s.buf[i] = 0x00#8

/-- Every context register at its reset value, but for ERR and ERRCODE (R36 item 2, R37). -/
def State.ContextCleared (s : State) : Prop :=
  s.var = .v512 ∧ s.h = zeros64 ∧ s.n = 0#512 ∧ s.sigma = 0#512 ∧ s.buf = zeros64 ∧ s.plen = 0
    ∧ s.dig = zeros64 ∧ s.pend = none

/-- A pending command still needs at least one byte, and its count fits its field (R32, R36 item 5;
that the count fits is DEDUCED from R7 and R91, assumption log 8). -/
def Pending.Valid (p : Pending) : Prop :=
  p.collected.length < p.count ∧
    match p.op with
    | .update => p.count < count24Limit
    | .loadpart => p.count < count6Limit

/-- The invariants that hold at every command boundary (R36); `errcode_cleared` and `errcode_produced`
also say that ERR goes with a code of R221, and `done_window` that DIG is the window of `H` (R30, R174). -/
structure State.Inv (s : State) : Prop where
  /-- R36 item 1 -/
  zero_tail : s.ZeroTail
  /-- R36 item 2 -/
  idle_cleared : s.lifecycle = .idle → s.ContextCleared
  /-- R36 item 3 -/
  active_counter : s.lifecycle = .active → s.n.toNat % 512 = 0
  /-- R36 item 4 -/
  done_empty : s.lifecycle = .done → s.plen = 0 ∧ s.buf = zeros64 ∧ s.dvalid = true
  /-- R36 item 4 -/
  not_done_blank : s.lifecycle ≠ .done → s.dig = zeros64 ∧ s.dvalid = false
  /-- R30, R174 -/
  done_window : s.lifecycle = .done → s.dig = window s.var s.h
  /-- R36 item 5 -/
  pending_active : ∀ p, s.pend = some p → s.lifecycle = .active ∧ p.Valid
  /-- R36 item 6 -/
  errcode_cleared : s.err = false → s.errcode = 0#4
  /-- R221: a recorded error has one of the codes 1 to 5 -/
  errcode_produced : s.err = true → 1 ≤ s.errcode.toNat ∧ s.errcode.toNat ≤ 5

/-! ### STATUS -/

/-- The fields of a STATUS word but PLEN, bit range by bit range, and its reserved bits (R33). -/
def StatusFieldsButPlen (st : Word) (s : State) : Prop :=
  st.extractLsb' 0 1 = (if s.pend = none then 0#1 else 1#1)
    ∧ st.extractLsb' 1 2
        = (match s.lifecycle with | .idle => 0b00#2 | .active => 0b01#2 | .done => 0b10#2)
    ∧ st.extractLsb' 3 1 = (match s.var with | .v512 => 0#1 | .v256 => 1#1)
    ∧ st.extractLsb' 4 1 = (if s.lifecycle = .done then 1#1 else 0#1)
    ∧ st.extractLsb' 5 1 = (if s.err = true then 1#1 else 0#1)
    ∧ st.extractLsb' 6 2 = 0#2
    ∧ st.extractLsb' 8 4 = s.errcode
    ∧ st.extractLsb' 12 4 = 0#4
    ∧ st.extractLsb' 22 2 = 0#2
    ∧ st.extractLsb' 24 4
        = (match s.pend with
          | none => 0#4
          | some p => match p.op with | .update => 2#4 | .loadpart => 4#4)
    ∧ st.extractLsb' 28 4 = 0#4

/-! ### Runs -/

/-- The end of a complete run: the host has issued its last access and nothing is pending (R260). -/
def State.Complete (s : State) : Prop := s.requests = [] ∧ s.busy = false

/-- Two states agree on everything R22 lists; they may differ in the host's side of the bus. -/
def SameBlock (s t : State) : Prop :=
  t = { s with requests := t.requests, replies := t.replies, draws := t.draws }

/-- Two states agree on everything R22 lists but ERR and ERRCODE (R224). -/
def SameContext (s t : State) : Prop :=
  SameBlock { s with err := t.err, errcode := t.errcode } t

/-- Instructions performed one after the other, stopping at the first that does not answer a next state. -/
def execAll : List Instr → State → Host.Outcome State Fault Refusal
  | [], s => .next s
  | i :: is, s =>
    match exec i s with
    | .next t => execAll is t
    | .fault f => .fault f
    | .refused r => .refused r

/-- An UPDATE of a chunk and the DATA words that carry it (R14, R69). -/
def updateInstrs (chunk : List Word) : List Instr := .update chunk.length :: chunk.map .data

/-! ### The reference description of a hash computation -/

/-- The whole 64-byte blocks of a message, in message order. -/
def wholeBlocks (d : List Byte) : List Bytes64 :=
  (List.range (d.length / 64)).map fun k => padZeros ((d.drop (64 * k)).take 64)

/-- The bytes after the last whole block. -/
def lastBytes (d : List Byte) : List Byte := d.drop (64 * (d.length / 64))

/-- The chaining value after a list of blocks, the `k`-th keyed by `bytes512(512 * k)` (R151). -/
def chain (P : Params) (iv : Bytes64) (blocks : List Bytes64) : Bytes64 :=
  blocks.zipIdx.foldl (fun h mk => P.G h (bytes512 (BitVec.ofNat 512 (512 * mk.2))) mk.1) iv

/-- The sum modulo 2^512 of a list of blocks (R28). -/
def blockSum (blocks : List Bytes64) : BitVec 512 := (blocks.map int512).sum

/-- The padded last block of a message (R171). -/
def paddedBlock (d : List Byte) : Bytes64 := padZeros (lastBytes d ++ [0x01#8])

/-- The digest of a message (R146, R170 to R173): the chain over its whole blocks, the padded block keyed
by the bits before it, the length pass and the checksum pass keyed by zero, and the output window. -/
def streebog (P : Params) (v : Variant) (d : List Byte) : Bytes64 :=
  let m := paddedBlock d
  let h := chain P (P.iv v) (wholeBlocks d)
  let h1 := P.G h (bytes512 (BitVec.ofNat 512 (512 * (d.length / 64)))) m
  let h2 := P.G h1 zeros64 (bytes512 (BitVec.ofNat 512 (8 * d.length)))
  let h3 := P.G h2 zeros64 (bytes512 (blockSum (wholeBlocks d) + int512 m))
  window v h3

end Sys2Proof.Machine
end

