-- ==== Sys2Proof/Certificates/Slice0/Obligations.lean ====
section
/-!
DEFINITION. The statements for the provers. Each is about every state unless it says otherwise; where one
could fail in a state no run reaches, it takes the invariant `State.Inv` (or its first clause,
`State.ZeroTail`) as a premise, and `InvHoldsAtReset` and `EveryStepKeepsInv` state that invariant.
-/

open Sys2Proof Sys2Proof.Machine

/-! ### Encoding -/

/-- R91, R100: the words the spec writes out for the command lines, and a DATA word with its ignored bits
set, decode to the instructions they stand for. -/
def Obligations.WrittenOutWordsDecode : Prop :=
  decode .cmd 0x00000001#32 = .ok (.init .v512)
    ∧ decode .cmd 0x00000011#32 = .ok (.init .v256)
    ∧ decode .cmd 0x00000302#32 = .ok (.update 3)
    ∧ decode .cmd 0x00000003#32 = .ok .final
    ∧ decode .cmd 0x00003F04#32 = .ok (.loadpart 63)
    ∧ decode .cmd 0x00000005#32 = .ok .clrerr
    ∧ decode .data 0x12345662#32 = .ok (.data 0x12345662#32)
    ∧ dataByte 0x12345662#32 = 0x62#8

/-- R91, R92, R94, R98, R99: the decoder reads back every instruction an encoding can express, with every
operand at every value its field admits. -/
def Obligations.DecodeOfEncodeIsTheInstruction : Prop :=
  ∀ i : Instr, i.WellFormed → decode i.port (encode i) = .ok i

/-- R90, R97, R98: every word has at most one meaning. What the decoder accepts at a register is a
well-formed instruction of that register, and encoding it gives the word back, bit for bit. -/
def Obligations.EncodeOfDecodeIsTheWord : Prop :=
  ∀ (p : Port) (w : Word) (i : Instr),
    decode p w = .ok i → i.WellFormed ∧ i.port = p ∧ encode i = w

/-- R95: a command word with a reserved opcode raises EOPC and has no other effect, in every state. -/
def Obligations.ReservedOpcodeRaisesEopc : Prop :=
  ∀ (w : Word) (s : State), (w.toNat % 16 = 0 ∨ 6 ≤ w.toNat % 16) →
    performAccess (.write .w32 0x000 w) s = .next (raiseError .eopc s)

/-- R96: a command word with a defined opcode and a bit of that opcode's reserved-zero mask (R93) set
raises EFIELD and has no other effect, in every state; a LOADPART count above 63 is such a word. -/
def Obligations.ReservedFieldRaisesEfield : Prop :=
  (∀ (w : Word) (s : State),
    ((w.toNat % 16 = 1 ∧ w &&& 0xFFFFFFE0#32 ≠ 0#32)
      ∨ (w.toNat % 16 = 2 ∧ w &&& 0x000000F0#32 ≠ 0#32)
      ∨ (w.toNat % 16 = 3 ∧ w &&& 0xFFFFFFF0#32 ≠ 0#32)
      ∨ (w.toNat % 16 = 4 ∧ w &&& 0xFFFFC0F0#32 ≠ 0#32)
      ∨ (w.toNat % 16 = 5 ∧ w &&& 0xFFFFFFF0#32 ≠ 0#32)) →
    performAccess (.write .w32 0x000 w) s = .next (raiseError .efield s))
  ∧ ∀ (k : Nat) (s : State), 63 < k → k < 16777216 →
    performAccess (.write .w32 0x000 (BitVec.ofNat 32 k <<< 8 ||| 0x4#32)) s
      = .next (raiseError .efield s)

/-- R98, R99: a write of an instruction's word to its register performs the instruction. -/
def Obligations.WriteOfAnEncodedWordPerformsIt : Prop :=
  (∀ (i : Instr) (s : State), i.WellFormed → i.port = .cmd →
    performAccess (.write .w32 0x000 (encode i)) s = exec i s)
  ∧ ∀ (w : Word) (s : State), performAccess (.write .w32 0x008 w) s = exec (.data w) s

/-- R69, R99: bits [31:8] of a DATA word never matter. -/
def Obligations.DataIgnoresTheUpperBits : Prop :=
  ∀ (w w' : Word) (s : State), w.toNat % 256 = w'.toNat % 256 → exec (.data w) s = exec (.data w') s

/-! ### The step -/

/-- R71, R72, R152, R259: one step performs the oldest access the host has issued, on the state without
it; with none issued the block has no step of its own. -/
def Obligations.StepPerformsTheNextAccess : Prop :=
  (∀ (s : State) (a : Access) (rest : List Access), s.requests = a :: rest →
    step s = performAccess a { s with requests := rest })
  ∧ ∀ s : State, s.requests = [] → step s = .refused .noHostAccess

/-- R79, R98: when the host's next access writes a word to CMD or DATA and the word decodes to an
instruction there, the step is `exec` of that instruction on the state without the access. -/
def Obligations.StepRunsTheDecodedInstruction : Prop :=
  ∀ (s : State) (p : Port) (w : Word) (i : Instr) (rest : List Access),
    s.requests = .write .w32 (match p with | .cmd => 0x000 | .data => 0x008) w :: rest →
    decode p w = .ok i →
    step s = exec i { s with requests := rest }

/-- R62: an access that is not 32 bits wide at a multiple of 4 within 0x000..0x1FC is refused; every other
access, and reset, answers a next state. -/
def Obligations.OnlyUndefinedAccessesAreRefused : Prop :=
  (∀ (w : AccessWidth) (off : Nat) (v : Word) (s : State), (w ≠ .w32 ∨ off % 4 ≠ 0 ∨ 0x1FC < off) →
    performAccess (.read w off) s = .refused .undefinedAccess
      ∧ performAccess (.write w off v) s = .refused .undefinedAccess)
  ∧ (∀ (off : Nat) (v : Word) (s : State), off % 4 = 0 → off ≤ 0x1FC →
    (∃ t, performAccess (.read .w32 off) s = .next t)
      ∧ ∃ t, performAccess (.write .w32 off v) s = .next t)
  ∧ ∀ s : State, ∃ t, performAccess .reset s = .next t

/-! ### Rejection -/

/-- R222, with the numbers of R221: the first error is recorded, a later one changes nothing, and no other
state changes. -/
def Obligations.RaiseErrorKeepsTheFirst : Prop :=
  (∀ (e : ErrorCode) (s : State), s.err = false →
    raiseError e s = { s with
      err := true
      errcode := match e with
        | .eseq => 1#4 | .eopc => 2#4 | .efield => 3#4 | .edata => 4#4 | .ebusy => 5#4 })
  ∧ ∀ (e : ErrorCode) (s : State), s.err = true → raiseError e s = s

/-- R98, R223: while a command is pending, UPDATE, LOADPART and FINAL raise EBUSY, whatever the lifecycle
state, and have no other effect. -/
def Obligations.PendingCommandMakesOthersBusy : Prop :=
  ∀ (i : Instr) (s : State), (i = .final ∨ (∃ n, i = .update n) ∨ ∃ k, i = .loadpart k) →
    s.pend ≠ none → exec i s = .next (raiseError .ebusy s)

/-- R140, R150, R170, R200, R223: with nothing pending, UPDATE, LOADPART and FINAL raise ESEQ in IDLE and
in DONE, whatever the count, and have no other effect. -/
def Obligations.CommandsOutsideActiveRaiseEseq : Prop :=
  ∀ (i : Instr) (s : State), (i = .final ∨ (∃ n, i = .update n) ∨ ∃ k, i = .loadpart k) →
    s.pend = none → s.lifecycle ≠ .active → exec i s = .next (raiseError .eseq s)

/-- R224, R220: a step that records an error leaves every piece of the block's state but ERR and ERRCODE
as it was: a rejected access has no partial effect. -/
def Obligations.RejectionLeavesTheContext : Prop :=
  ∀ (a : Access) (s t : State), performAccess a s = .next t → s.err = false → t.err = true →
    SameContext s t

/-- R225, R222: the error report is sticky. Only CLRERR and reset clear it, and no other access changes
the recorded code. -/
def Obligations.ErrorReportIsSticky : Prop :=
  ∀ (a : Access) (s t : State), performAccess a s = .next t → s.err = true →
    a ≠ .reset → a ≠ .write .w32 0x000 0x00000005#32 →
    t.err = true ∧ t.errcode = s.errcode

/-! ### INIT and CLRERR -/

/-- R120: INIT, in every state, sets every context field from the variant alone, abandons a pending
command, and leaves the error report and the host's side of the bus. -/
def Obligations.InitResetsTheContext : Prop :=
  ∀ (v : Variant) (s : State), exec (.init v) s = .next
    { lifecycle := .active
      var := v
      h := match v with | .v512 => Config.params.iv512 | .v256 => Config.params.iv256
      n := 0#512
      sigma := 0#512
      buf := zeros64
      plen := 0
      dig := zeros64
      err := s.err
      errcode := s.errcode
      pend := none
      requests := s.requests
      replies := s.replies
      draws := s.draws }

/-- R121: a second INIT with the same variant leaves the state the first one left. -/
def Obligations.InitIsIdempotent : Prop :=
  ∀ (v : Variant) (s : State), ∃ t, exec (.init v) s = .next t ∧ exec (.init v) t = .next t

/-- R122: after INIT nothing of the previous message is left: two states that agree on the error report
and on the host's side of the bus, and on nothing else, are the same after it. -/
def Obligations.InitForgetsTheMessage : Prop :=
  ∀ (v : Variant) (s s' : State),
    s.err = s'.err → s.errcode = s'.errcode → s.requests = s'.requests → s.replies = s'.replies →
    s.draws = s'.draws → exec (.init v) s = exec (.init v) s'

/-- R125: CLRERR, in every state, clears ERR and ERRCODE and changes nothing else; a pending command stays
pending. -/
def Obligations.ClrerrClearsTheReport : Prop :=
  ∀ s : State, exec .clrerr s = .next
    { lifecycle := s.lifecycle
      var := s.var
      h := s.h
      n := s.n
      sigma := s.sigma
      buf := s.buf
      plen := s.plen
      dig := s.dig
      err := false
      errcode := 0#4
      pend := s.pend
      requests := s.requests
      replies := s.replies
      draws := s.draws }

/-! ### UPDATE, LOADPART and DATA -/

/-- R140, R32, R150: in ACTIVE with nothing pending, UPDATE of a non-zero count becomes pending, so that
BUSY is 1, REMAIN is the count and PENDOP is 2, and changes nothing else; a count of 0 changes nothing. -/
def Obligations.UpdateBecomesPending : Prop :=
  (∀ (n : Nat) (s : State), 0 < n → n < 16777216 → s.lifecycle = .active → s.pend = none →
    ∃ t, exec (.update n) s = .next t
      ∧ t = { s with pend := some { op := .update, count := n, collected := [] } }
      ∧ t.busy = true ∧ t.remain = n ∧ t.pendop = 2#4)
  ∧ ∀ s : State, s.lifecycle = .active → s.pend = none → exec (.update 0) s = .next s

/-- R200, R201, R32: in ACTIVE with nothing pending, LOADPART of a non-zero count becomes pending, so that
BUSY is 1, REMAIN is the count and PENDOP is 4, and changes nothing else; a count of 0 empties the partial
buffer at once and changes nothing else. -/
def Obligations.LoadpartBecomesPending : Prop :=
  (∀ (k : Nat) (s : State), 0 < k → k ≤ 63 → s.lifecycle = .active → s.pend = none →
    ∃ t, exec (.loadpart k) s = .next t
      ∧ t = { s with pend := some { op := .loadpart, count := k, collected := [] } }
      ∧ t.busy = true ∧ t.remain = k ∧ t.pendop = 4#4)
  ∧ ∀ s : State, s.lifecycle = .active → s.pend = none →
    exec (.loadpart 0) s = .next { s with buf := zeros64, plen := 0 }

/-- R141: a DATA write with nothing pending raises EDATA, in every lifecycle state; with a command pending
that needs more bytes, its byte joins the collected bytes, REMAIN falls by 1, and nothing else changes. -/
def Obligations.DataCollectsOrRaisesEdata : Prop :=
  (∀ (w : Word) (s : State), s.pend = none → exec (.data w) s = .next (raiseError .edata s))
  ∧ ∀ (w : Word) (s : State) (op : PendOp) (count : Nat) (col : List Byte),
    s.pend = some { op := op, count := count, collected := col } → col.length + 1 < count →
    ∃ t, exec (.data w) s = .next t
      ∧ t = { s with
          pend := some { op := op, count := count, collected := col ++ [BitVec.ofNat 8 w.toNat] } }
      ∧ t.remain + 1 = s.remain

/-- R141, R142: the DATA write that supplies the last byte of an UPDATE ends the command and absorbs all
the collected bytes; the byte-serial form of R148 says what that leaves. The premise is R36 item 1. -/
def Obligations.LastByteOfAnUpdateAbsorbs : Prop :=
  ∀ (w : Word) (s : State) (count : Nat) (col : List Byte),
    s.pend = some { op := .update, count := count, collected := col } → count = col.length + 1 →
    s.ZeroTail →
    exec (.data w) s = .next
      (absorbSerial Config.params (col ++ [BitVec.ofNat 8 w.toNat]) { s with pend := none })

/-- R35, R142: the DATA write that completes an UPDATE writes `H`, `N`, `SIGMA`, `BUF`, `PLEN` and `PEND`
(none), and nothing else, in every state. -/
def Obligations.UpdateCompletionFrame : Prop :=
  ∀ (w : Word) (s : State) (count : Nat) (col : List Byte),
    s.pend = some { op := .update, count := count, collected := col } → count ≤ col.length + 1 →
    ∃ t, exec (.data w) s = .next t
      ∧ t = { s with h := t.h, n := t.n, sigma := t.sigma, buf := t.buf, plen := t.plen, pend := none }

/-- R141, R201: the DATA write that supplies the last byte of a LOADPART ends the command, makes the
collected bytes the partial buffer with zeros above them, and changes nothing else. The bound on the
count is the encoding's (R91). -/
def Obligations.LastByteOfALoadpartLoads : Prop :=
  ∀ (w : Word) (s : State) (count : Nat) (col : List Byte),
    s.pend = some { op := .loadpart, count := count, collected := col } → count = col.length + 1 →
    count ≤ 63 →
    ∃ t, exec (.data w) s = .next t
      ∧ t = { s with buf := t.buf, plen := t.plen, pend := none }
      ∧ t.plen.val = count
      ∧ ∀ i : Fin 64, t.buf[i] = (col ++ [BitVec.ofNat 8 w.toNat]).getD i.val 0x00#8

/-- R201: right after INIT, a LOADPART of 1 to 63 bytes and an UPDATE of the same bytes leave the same
state, whatever the transform and the constants. -/
def Obligations.LoadpartAfterInitActsAsUpdate : Prop :=
  ∀ (P : Params) (v : Variant) (d : List Byte) (s : State), d.length ≤ 63 →
    completePending P .loadpart d (initContext P v s) = completePending P .update d (initContext P v s)

/-! ### Absorption -/

/-- R148: the three phases and the byte-serial loop leave the same state. The premise is R36 item 1. -/
def Obligations.AbsorbIsByteSerial : Prop :=
  ∀ (P : Params) (d : List Byte) (s : State), s.ZeroTail → absorb P d s = absorbSerial P d s

/-- R149: absorbing two chunks one after the other leaves the same state as absorbing them joined, for
every transform. The premise is R36 item 1. -/
def Obligations.AbsorptionIgnoresChunking : Prop :=
  ∀ (P : Params) (d1 d2 : List Byte) (s : State), s.ZeroTail →
    absorb P d2 (absorb P d1 s) = absorb P (d1 ++ d2) s

/-- R147: one UPDATE of `n` bytes increases LEN by exactly `8 * n` modulo 2^512, at the DATA write that
completes it, in every state. -/
def Obligations.UpdateAddsItsBitsToLen : Prop :=
  ∀ (w : Word) (s : State) (n : Nat) (col : List Byte),
    s.pend = some { op := .update, count := n, collected := col } → n = col.length + 1 →
    ∃ t, exec (.data w) s = .next t ∧ t.len = s.len + BitVec.ofNat 512 (8 * n)

/-- R150, R143 to R145: absorbing `n` bytes compresses `(PLEN + n) / 64` blocks, each adding 512 to `N`,
and leaves `(PLEN + n) mod 64` bytes in the buffer, in every state and for every transform. -/
def Obligations.AbsorbCountsItsBlocks : Prop :=
  ∀ (P : Params) (d : List Byte) (s : State),
    (absorb P d s).n = s.n + BitVec.ofNat 512 (512 * ((s.plen.val + d.length) / 64))
      ∧ (absorb P d s).plen.val = (s.plen.val + d.length) % 64

/-- R151, R28, R29: after INIT and the absorption of a message, `H` is the chain over the message's whole
blocks with the `k`-th keyed by `bytes512(512 * k)`, `SIGMA` is their sum, `N` is 512 for each, and the
bytes after them are in the partial buffer with zeros above; for every transform and constants. -/
def Obligations.BlocksAreKeyedByPosition : Prop :=
  ∀ (P : Params) (v : Variant) (d : List Byte) (s : State),
    let t := absorb P d (initContext P v s)
    t.h = chain P (P.iv v) (wholeBlocks d)
      ∧ t.sigma = blockSum (wholeBlocks d)
      ∧ t.n = BitVec.ofNat 512 (512 * (d.length / 64))
      ∧ t.buf = padZeros (lastBytes d)
      ∧ t.plen.val = d.length % 64

/-- R69, R140 to R142: in ACTIVE with nothing pending, an UPDATE and the DATA words of its chunk, one
after the other, absorb the low bytes of those words, first word first. -/
def Obligations.UpdateWithItsPayloadAbsorbsIt : Prop :=
  ∀ (chunk : List Word) (s : State), chunk.length < 16777216 → s.lifecycle = .active → s.pend = none →
    execAll (updateInstrs chunk) s = .next (absorb Config.params (chunk.map dataByte) s)

/-! ### FINAL -/

/-- R170, R172, R173: in ACTIVE with nothing pending, FINAL runs the three passes on the padded block,
selects the window of the last chaining value, becomes DONE, and changes nothing else. -/
def Obligations.FinalSelectsTheDigest : Prop :=
  ∀ s : State, s.lifecycle = .active → s.pend = none →
    let G := Config.params.G
    let m := pad s.buf s.plen.val
    let n1 := s.n + BitVec.ofNat 512 (8 * s.plen.val)
    let s1 := s.sigma + int512 m
    let h1 := G s.h (bytes512 s.n) m
    let h2 := G h1 zeros64 (bytes512 n1)
    let h3 := G h2 zeros64 (bytes512 s1)
    exec .final s = .next { s with
      h := h3
      n := n1
      sigma := s1
      buf := zeros64
      plen := 0
      dig := window s.var h3
      lifecycle := .done }

/-- R171: the padded block is the buffered bytes, the byte 0x01, and zeros; where the unused bytes of the
buffer are zero (R29) it is the buffer with byte PLEN set to 0x01, and its integer is the buffer's plus
`2^(8*PLEN)`. -/
def Obligations.PaddingSetsTheMarkerBit : Prop :=
  (∀ (B : Bytes64) (plen i : Fin 64),
    (pad B plen.val)[i] = if i < plen then B[i] else if i = plen then 0x01#8 else 0x00#8)
  ∧ ∀ s : State, s.ZeroTail →
    pad s.buf s.plen.val = s.buf.set s.plen.val 0x01#8
      ∧ int512 (pad s.buf s.plen.val) = int512 s.buf + 1#512 <<< (8 * s.plen.val)

/-- R173: the window of V512 is all of `h`; that of V256 is `h[32..63]` with zeros above, the most
significant half of `int512(h)`. -/
def Obligations.WindowIsTheUpperHalf : Prop :=
  ∀ h : Bytes64,
    window .v512 h = h
      ∧ (∀ i : Fin 64, (window .v256 h)[i] = h.toList.getD (i.val + 32) 0x00#8)
      ∧ int512 (window .v256 h) = int512 h >>> 256

/-- R177: INIT then FINAL, from any state, gives the digest of the empty message: the three passes on the
block 0x01 followed by 63 zeros, whose integer is 1. -/
def Obligations.EmptyMessageDigest : Prop :=
  ∀ (v : Variant) (s : State),
    let G := Config.params.G
    let m := padZeros [0x01#8]
    let h1 := G (Config.params.iv v) zeros64 m
    let h2 := G h1 zeros64 zeros64
    let h3 := G h2 zeros64 (bytes512 1#512)
    int512 m = 1#512
      ∧ ∃ t, execAll [.init v, .final] s = .next t
        ∧ t.dig = window v h3 ∧ t.h = h3 ∧ t.n = 0#512 ∧ t.sigma = 1#512 ∧ t.lifecycle = .done

/-- R142, R146, R149, R151, R170 to R173: the headline. From any state, INIT, a message fed in any
partition into UPDATE chunks with their DATA words, and FINAL end in DONE with the digest of the whole
message as the spec describes it, whatever the transform is; the error report is as it was. -/
def Obligations.HashingAMessageGivesItsDigest : Prop :=
  ∀ (v : Variant) (chunks : List (List Word)) (s : State),
    (∀ c ∈ chunks, c.length < 16777216) →
    ∃ t, execAll (.init v :: (chunks.flatMap updateInstrs ++ [.final])) s = .next t
      ∧ t.dig = streebog Config.params v (chunks.flatten.map dataByte)
      ∧ t.lifecycle = .done ∧ t.err = s.err ∧ t.errcode = s.errcode
      ∧ t.len = BitVec.ofNat 512 (8 * chunks.flatten.length)

/-! ### Byte order and registers -/

/-- R10: `int512(B)` is the sum of `B[i] * 256^i`, byte 0 least significant, and `bytes512(x)` is the
unique 64 bytes whose integer is `x`. -/
def Obligations.BytesAndIntegersAgree : Prop :=
  (∀ B : Bytes64, (int512 B).toNat = ((List.finRange 64).map fun i => B[i].toNat * 256 ^ i.val).sum)
    ∧ (∀ x : BitVec 512, int512 (bytes512 x) = x)
    ∧ ∀ B : Bytes64, bytes512 (int512 B) = B

/-- R67: register word `j` holds bytes `4j .. 4j+3`, byte `4j` in bits [7:0]; so word `j` of
`bytes512(x)` holds bits `32j+31 .. 32j` of `x`. -/
def Obligations.WordViewIsLittleEndian : Prop :=
  (∀ (B : Bytes64) (j : Fin 16) (k : Fin 4),
    (wordAt B j).extractLsb' (8 * k.val) 8 = B.toList.getD (4 * j.val + k.val) 0x00#8)
  ∧ ∀ (x : BitVec 512) (j : Fin 16), wordAt (bytes512 x) j = x.extractLsb' (32 * j.val) 32

/-- R61: the register map, both ways: each named register stands at its offset and nowhere else, and the
reserved offsets are 0x010..0x03C and 0x0C0..0x0FC. -/
def Obligations.RegisterMapIsR61 : Prop :=
  (∀ r : Reg, r ≠ .reserved → regAt (regOffset r) = r)
  ∧ (∀ off : Nat, off % 4 = 0 → off ≤ 0x1FC → regAt off ≠ .reserved → regOffset (regAt off) = off)
  ∧ ∀ off : Nat, off % 4 = 0 → off ≤ 0x1FC →
    (regAt off = .reserved ↔ (0x010 ≤ off ∧ off ≤ 0x03C) ∨ (0x0C0 ≤ off ∧ off ≤ 0x0FC))

/-- R33: every STATUS read gives the fields of R33 at their bits and 0 at the reserved bits; its PLEN
field is PLEN when nothing is pending (while BUSY it is unspecified, R70). -/
def Obligations.StatusReadsItsFields : Prop :=
  ∀ s : State, StatusFieldsButPlen (regRead s 0x004) s
    ∧ (s.pend = none → ((regRead s 0x004).extractLsb' 16 6).toNat = s.plen.val)

/-- R32, R70: while a command is pending, REMAIN reads the bytes outstanding (at least 1), DIG reads zero,
and each word of LEN, H, N, SIGMA and BUF, and the PLEN field of STATUS, reads the state's next free
value, about which nothing is known. -/
def Obligations.ReadsWhileBusy : Prop :=
  ∀ (s : State) (p : Pending), s.Inv → s.pend = some p →
    (regRead s 0x00C).toNat = p.count - p.collected.length
      ∧ 1 ≤ (regRead s 0x00C).toNat
      ∧ (regRead s 0x004).extractLsb' 16 6 = (Config.freeWord s.draws).extractLsb' 0 6
      ∧ ∀ j : Fin 16,
          regRead s (0x080 + 4 * j.val) = 0#32
            ∧ regRead s (0x040 + 4 * j.val) = Config.freeWord s.draws
            ∧ regRead s (0x100 + 4 * j.val) = Config.freeWord s.draws
            ∧ regRead s (0x140 + 4 * j.val) = Config.freeWord s.draws
            ∧ regRead s (0x180 + 4 * j.val) = Config.freeWord s.draws
            ∧ regRead s (0x1C0 + 4 * j.val) = Config.freeWord s.draws

/-- R34, R78: with nothing pending, REMAIN reads 0 and word `j` of each window reads word `j` of its
value. -/
def Obligations.ContextReadsWhenIdle : Prop :=
  ∀ s : State, s.pend = none →
    regRead s 0x00C = 0#32
      ∧ ∀ j : Fin 16,
          regRead s (0x040 + 4 * j.val) = s.len.extractLsb' (32 * j.val) 32
            ∧ regRead s (0x080 + 4 * j.val) = wordAt s.dig j
            ∧ regRead s (0x100 + 4 * j.val) = wordAt s.h j
            ∧ regRead s (0x140 + 4 * j.val) = s.n.extractLsb' (32 * j.val) 32
            ∧ regRead s (0x180 + 4 * j.val) = s.sigma.extractLsb' (32 * j.val) 32
            ∧ regRead s (0x1C0 + 4 * j.val) = wordAt s.buf j

/-- R65: a read answers its word to the host and changes no piece of the block's state; a read that is not
a draw leaves the supply of free values too, so that it may be repeated. -/
def Obligations.ReadsHaveNoSideEffect : Prop :=
  ∀ (off : Nat) (s : State), off % 4 = 0 → off ≤ 0x1FC →
    ∃ t, performAccess (.read .w32 off) s = .next t
      ∧ SameBlock s t ∧ t.requests = s.requests ∧ t.replies = s.replies ++ [regRead s off]
      ∧ (s.pend = none → t.draws = s.draws ∧ regRead t off = regRead s off)

/-- R63, R64: a write to any offset but CMD and DATA is ignored, has no effect and sets no error; a read
of CMD, of DATA or of a reserved offset answers 0 to the host and has no effect on the block. -/
def Obligations.OtherOffsetsIgnoreWritesAndReadZero : Prop :=
  (∀ (off : Nat) (v : Word) (s : State), off % 4 = 0 → off ≤ 0x1FC → off ≠ 0x000 → off ≠ 0x008 →
    performAccess (.write .w32 off v) s = .next s)
  ∧ ∀ (off : Nat) (s : State), off % 4 = 0 → off ≤ 0x1FC →
    (off = 0x000 ∨ off = 0x008 ∨ (0x010 ≤ off ∧ off ≤ 0x03C) ∨ (0x0C0 ≤ off ∧ off ≤ 0x0FC)) →
    performAccess (.read .w32 off) s = .next { s with replies := s.replies ++ [0#32] }

/-! ### Reset and the whole machine -/

/-- R37: every piece of the block's state after reset; STATUS and every other register read 0. -/
def Obligations.ResetValues : Prop :=
  State.reset.lifecycle = .idle ∧ State.reset.var = .v512 ∧ State.reset.h = zeros64
    ∧ State.reset.n = 0#512 ∧ State.reset.sigma = 0#512 ∧ State.reset.buf = zeros64
    ∧ State.reset.plen = 0 ∧ State.reset.dig = zeros64 ∧ State.reset.err = false
    ∧ State.reset.errcode = 0#4 ∧ State.reset.pend = none
    ∧ ∀ off : Nat, off % 4 = 0 → off ≤ 0x1FC → regRead State.reset off = 0#32

/-- R250: asserting reset, in every state, gives every piece of the block's state its reset value and
leaves what the host has issued and read. -/
def Obligations.ResetAccessResetsTheBlock : Prop :=
  ∀ s : State, ∃ t, performAccess .reset s = .next t ∧ SameBlock State.reset t
    ∧ t.requests = s.requests ∧ t.replies = s.replies ∧ t.draws = s.draws

/-- R36, R37: the invariants hold right after reset. -/
def Obligations.InvHoldsAtReset : Prop := State.reset.Inv

/-- R36: every step keeps the invariants, from every state that meets them. -/
def Obligations.EveryStepKeepsInv : Prop :=
  ∀ s t : State, s.Inv → step s = .next t → t.Inv

/-- R23: IDLE, ACTIVE and DONE change only as reset -> IDLE, INIT -> ACTIVE and FINAL from ACTIVE -> DONE;
every other access leaves `STATE`. -/
def Obligations.LifecycleTransitions : Prop :=
  ∀ (a : Access) (s t : State), performAccess a s = .next t →
    (a = .reset ∧ t.lifecycle = .idle)
    ∨ ((a = .write .w32 0x000 0x00000001#32 ∨ a = .write .w32 0x000 0x00000011#32)
        ∧ t.lifecycle = .active)
    ∨ (a = .write .w32 0x000 0x00000003#32 ∧ s.lifecycle = .active ∧ t.lifecycle = .done)
    ∨ t.lifecycle = s.lifecycle

/-- R123, R24: the variant is fixed at INIT: no access but an INIT command word and reset writes `VAR`,
and the two constants it selects from differ. -/
def Obligations.OnlyInitWritesTheVariant : Prop :=
  (∀ (a : Access) (s t : State), performAccess a s = .next t →
    a ≠ .reset → a ≠ .write .w32 0x000 0x00000001#32 → a ≠ .write .w32 0x000 0x00000011#32 →
    t.var = s.var)
  ∧ ∀ P : Params, P.iv .v512 ≠ P.iv .v256

/-- R174: in DONE with nothing pending (R36 item 5), every access but INIT and reset leaves `DIG` and every
other piece of the block's state but the error report. -/
def Obligations.DigestIsKeptUntilInit : Prop :=
  ∀ (a : Access) (s t : State), s.Inv → s.lifecycle = .done → performAccess a s = .next t →
    a ≠ .reset → a ≠ .write .w32 0x000 0x00000001#32 → a ≠ .write .w32 0x000 0x00000011#32 →
    SameContext s t

/-- R152: a pending command leaves that state only by the DATA write of its last byte, by INIT or by
reset: any other access leaves it pending, with a byte more or as it was. -/
def Obligations.PendingWaitsForItsPayload : Prop :=
  ∀ (a : Access) (s t : State) (p : Pending), s.pend = some p → performAccess a s = .next t →
    a ≠ .reset → a ≠ .write .w32 0x000 0x00000001#32 → a ≠ .write .w32 0x000 0x00000011#32 →
    (t.pend = some p)
    ∨ ∃ w, a = .write .w32 0x008 w ∧
        ((p.collected.length + 1 < p.count
            ∧ t.pend = some { p with collected := p.collected ++ [BitVec.ofNat 8 w.toNat] })
          ∨ (p.count ≤ p.collected.length + 1 ∧ t.pend = none))

/-- R30, R226: no partial digest is ever shown: while DVALID is 0 every read of a DIG register returns 0.
The premise is R36 item 4. -/
def Obligations.NoPartialDigestIsRead : Prop :=
  ∀ (s : State) (j : Fin 16), s.Inv → s.dvalid = false → regRead s (0x080 + 4 * j.val) = 0#32
end

