-- ==== Sys2Proof/Laws/Bytes.lean ====
section
/-!
SUPPORT. What is proved once about byte strings: each builder of a `Bytes64` byte by byte, and the integer
of a byte list under concatenation.
-/

namespace Sys2Proof.Machine

@[simp] theorem getElem_zeros64 (i : Nat) (hi : i < 64) : zeros64[i] = 0x00#8 := by
  simp [zeros64]

@[simp] theorem getElem_bytes512 (x : BitVec 512) (i : Nat) (hi : i < 64) :
    (bytes512 x)[i] = x.extractLsb' (8 * i) 8 := by
  simp [bytes512]

@[simp] theorem getElem_padZeros (d : List Byte) (i : Nat) (hi : i < 64) :
    (padZeros d)[i] = d.getD i 0x00#8 := by
  simp [padZeros]

theorem getElem_overwrite (B : Bytes64) (start : Nat) (d : List Byte) (i : Nat) (hi : i < 64) :
    (overwrite B start d)[i] =
      if start ≤ i ∧ i < start + d.length then d.getD (i - start) 0x00#8 else B[i] := by
  simp [overwrite]

@[simp] theorem padZeros_nil : padZeros [] = zeros64 := by
  ext i hi
  simp

@[simp] theorem natOfBytes_nil : natOfBytes [] = 0 := rfl

@[simp] theorem natOfBytes_cons (b : Byte) (d : List Byte) :
    natOfBytes (b :: d) = b.toNat + 256 * natOfBytes d := rfl

theorem natOfBytes_append (d e : List Byte) :
    natOfBytes (d ++ e) = natOfBytes d + 256 ^ d.length * natOfBytes e := by
  induction d with
  | nil => simp
  | cons b d ih =>
    simp only [List.cons_append, natOfBytes_cons, ih, List.length_cons, Nat.pow_succ]
    ring

theorem natOfBytes_lt (d : List Byte) : natOfBytes d < 256 ^ d.length := by
  induction d with
  | nil => simp
  | cons b d ih =>
    have hb := b.isLt
    simp only [natOfBytes_cons, List.length_cons, Nat.pow_succ]
    omega

/-- A zero byte string has the integer 0. -/
theorem natOfBytes_replicate_zero (k : Nat) : natOfBytes (List.replicate k 0x00#8) = 0 := by
  induction k with
  | zero => rfl
  | succ k ih => simp [List.replicate_succ, ih]

end Sys2Proof.Machine
end

