-- ==== Sys2Proof/Laws/Encoding.lean ====
section
/-!
SUPPORT. The numbers of the fields the decoder reads and of the words the encoder writes, and the bits of a
STATUS field, each said once.
-/

namespace Sys2Proof

theorem toNat_opField (w : Word) : (opField w).toNat = w.toNat % 16 := by
  simp [opField]

theorem count24Field_eq (w : Word) : count24Field w = w.toNat / 256 := by
  have := w.isLt
  simp [count24Field, Nat.shiftRight_eq_div_pow]
  omega

theorem count6Field_eq (w : Word) : count6Field w = w.toNat / 256 % 64 := by
  simp [count6Field, Nat.shiftRight_eq_div_pow]

theorem dataByte_eq (w : Word) : dataByte w = BitVec.ofNat 8 w.toNat := by
  apply BitVec.eq_of_toNat_eq
  simp [dataByte]

/-- A count above an opcode byte, as a number (R100). -/
theorem toNat_countWord {n c : Nat} (hn : n < 16777216) (hc : c < 256) :
    (BitVec.ofNat 32 n <<< 8 ||| BitVec.ofNat 32 c).toNat = 256 * n + c := by
  have h1 : n * 2 ^ 8 % 2 ^ 32 = n <<< 8 := by
    rw [Nat.shiftLeft_eq]
    omega
  have hn' : n % 2 ^ 32 = n := Nat.mod_eq_of_lt (by omega)
  have hc' : c % 2 ^ 32 = c := Nat.mod_eq_of_lt (by omega)
  rw [BitVec.toNat_or, BitVec.toNat_shiftLeft, BitVec.toNat_ofNat, BitVec.toNat_ofNat, hn', hc',
    Nat.shiftLeft_eq, h1, ← Nat.shiftLeft_add_eq_or_of_lt (i := 8) (by omega), Nat.shiftLeft_eq]
  omega

/-- The decoder's mask test by the opcode, once the opcode is known (R93, R98). -/
theorem decodeCommand_of_mask {w rz : Word} (h : reservedZero (opField w) = some rz) :
    decodeCommand w = if w &&& rz ≠ 0#32 then .error .efield else .ok (commandOf w) := by
  simp [decodeCommand, h]

theorem decodeCommand_of_reserved {w : Word} (h : reservedZero (opField w) = none) :
    decodeCommand w = .error .eopc := by
  simp [decodeCommand, h]

namespace Machine

/-- Bit `i` of a STATUS field placed at bit `lo` (R33). -/
theorem getLsbD_statusField {k : Nat} (field : BitVec k) (lo i : Nat) :
    (statusField field lo).getLsbD i =
      (decide (i < 32) && !decide (i < lo) && field.getLsbD (i - lo)) := by
  simp only [statusField, BitVec.getLsbD_shiftLeft, BitVec.getLsbD_setWidth]
  by_cases hi : i < 32
  · have : i - lo < 32 := by omega
    simp [hi, this]
  · simp [hi]

end Machine

end Sys2Proof
end

