-- ==== Sys2Proof/Laws/State.lean ====
section
/-!
SUPPORT. One lemma per field per named update of the state, true by `rfl`, so that no later proof unfolds
a record update. `raiseError` writes ERR and ERRCODE alone; its other fields are here too.
-/

namespace Sys2Proof.Machine

section CompressBlock
variable (P : Params) (m : Bytes64) (s : State)

@[simp] theorem compressBlock_h : (compressBlock P m s).h = P.G s.h (bytes512 s.n) m := rfl
@[simp] theorem compressBlock_n : (compressBlock P m s).n = s.n + 512#512 := rfl
@[simp] theorem compressBlock_sigma : (compressBlock P m s).sigma = s.sigma + int512 m := rfl
@[simp] theorem compressBlock_lifecycle : (compressBlock P m s).lifecycle = s.lifecycle := rfl
@[simp] theorem compressBlock_var : (compressBlock P m s).var = s.var := rfl
@[simp] theorem compressBlock_buf : (compressBlock P m s).buf = s.buf := rfl
@[simp] theorem compressBlock_plen : (compressBlock P m s).plen = s.plen := rfl
@[simp] theorem compressBlock_dig : (compressBlock P m s).dig = s.dig := rfl
@[simp] theorem compressBlock_err : (compressBlock P m s).err = s.err := rfl
@[simp] theorem compressBlock_errcode : (compressBlock P m s).errcode = s.errcode := rfl
@[simp] theorem compressBlock_pend : (compressBlock P m s).pend = s.pend := rfl
@[simp] theorem compressBlock_requests : (compressBlock P m s).requests = s.requests := rfl
@[simp] theorem compressBlock_replies : (compressBlock P m s).replies = s.replies := rfl
@[simp] theorem compressBlock_draws : (compressBlock P m s).draws = s.draws := rfl

end CompressBlock

section Buffer
variable (d : List Byte) (s : State)

@[simp] theorem emptyBuffer_buf : (emptyBuffer s).buf = zeros64 := rfl
@[simp] theorem emptyBuffer_plen : (emptyBuffer s).plen = 0 := rfl
@[simp] theorem emptyBuffer_lifecycle : (emptyBuffer s).lifecycle = s.lifecycle := rfl
@[simp] theorem emptyBuffer_var : (emptyBuffer s).var = s.var := rfl
@[simp] theorem emptyBuffer_h : (emptyBuffer s).h = s.h := rfl
@[simp] theorem emptyBuffer_n : (emptyBuffer s).n = s.n := rfl
@[simp] theorem emptyBuffer_sigma : (emptyBuffer s).sigma = s.sigma := rfl
@[simp] theorem emptyBuffer_dig : (emptyBuffer s).dig = s.dig := rfl
@[simp] theorem emptyBuffer_err : (emptyBuffer s).err = s.err := rfl
@[simp] theorem emptyBuffer_errcode : (emptyBuffer s).errcode = s.errcode := rfl
@[simp] theorem emptyBuffer_pend : (emptyBuffer s).pend = s.pend := rfl
@[simp] theorem emptyBuffer_requests : (emptyBuffer s).requests = s.requests := rfl
@[simp] theorem emptyBuffer_replies : (emptyBuffer s).replies = s.replies := rfl
@[simp] theorem emptyBuffer_draws : (emptyBuffer s).draws = s.draws := rfl

@[simp] theorem loadPartial_buf : (loadPartial d s).buf = padZeros d := rfl
@[simp] theorem loadPartial_plen : (loadPartial d s).plen = Fin.ofNat 64 d.length := rfl
@[simp] theorem loadPartial_lifecycle : (loadPartial d s).lifecycle = s.lifecycle := rfl
@[simp] theorem loadPartial_var : (loadPartial d s).var = s.var := rfl
@[simp] theorem loadPartial_h : (loadPartial d s).h = s.h := rfl
@[simp] theorem loadPartial_n : (loadPartial d s).n = s.n := rfl
@[simp] theorem loadPartial_sigma : (loadPartial d s).sigma = s.sigma := rfl
@[simp] theorem loadPartial_dig : (loadPartial d s).dig = s.dig := rfl
@[simp] theorem loadPartial_err : (loadPartial d s).err = s.err := rfl
@[simp] theorem loadPartial_errcode : (loadPartial d s).errcode = s.errcode := rfl
@[simp] theorem loadPartial_pend : (loadPartial d s).pend = s.pend := rfl
@[simp] theorem loadPartial_requests : (loadPartial d s).requests = s.requests := rfl
@[simp] theorem loadPartial_replies : (loadPartial d s).replies = s.replies := rfl
@[simp] theorem loadPartial_draws : (loadPartial d s).draws = s.draws := rfl

end Buffer

section FinalDigest
variable (P : Params) (s : State)

@[simp] theorem finalDigest_lifecycle : (finalDigest P s).lifecycle = .done := rfl
@[simp] theorem finalDigest_var : (finalDigest P s).var = s.var := rfl
@[simp] theorem finalDigest_buf : (finalDigest P s).buf = zeros64 := rfl
@[simp] theorem finalDigest_plen : (finalDigest P s).plen = 0 := rfl
@[simp] theorem finalDigest_dig :
    (finalDigest P s).dig = window s.var (finalDigest P s).h := rfl
@[simp] theorem finalDigest_err : (finalDigest P s).err = s.err := rfl
@[simp] theorem finalDigest_errcode : (finalDigest P s).errcode = s.errcode := rfl
@[simp] theorem finalDigest_pend : (finalDigest P s).pend = s.pend := rfl
@[simp] theorem finalDigest_requests : (finalDigest P s).requests = s.requests := rfl
@[simp] theorem finalDigest_replies : (finalDigest P s).replies = s.replies := rfl
@[simp] theorem finalDigest_draws : (finalDigest P s).draws = s.draws := rfl

end FinalDigest

section InitContext
variable (P : Params) (v : Variant) (s : State)

@[simp] theorem initContext_lifecycle : (initContext P v s).lifecycle = .active := rfl
@[simp] theorem initContext_var : (initContext P v s).var = v := rfl
@[simp] theorem initContext_h : (initContext P v s).h = P.iv v := rfl
@[simp] theorem initContext_n : (initContext P v s).n = 0#512 := rfl
@[simp] theorem initContext_sigma : (initContext P v s).sigma = 0#512 := rfl
@[simp] theorem initContext_buf : (initContext P v s).buf = zeros64 := rfl
@[simp] theorem initContext_plen : (initContext P v s).plen = 0 := rfl
@[simp] theorem initContext_dig : (initContext P v s).dig = zeros64 := rfl
@[simp] theorem initContext_err : (initContext P v s).err = s.err := rfl
@[simp] theorem initContext_errcode : (initContext P v s).errcode = s.errcode := rfl
@[simp] theorem initContext_pend : (initContext P v s).pend = none := rfl
@[simp] theorem initContext_requests : (initContext P v s).requests = s.requests := rfl
@[simp] theorem initContext_replies : (initContext P v s).replies = s.replies := rfl
@[simp] theorem initContext_draws : (initContext P v s).draws = s.draws := rfl

end InitContext

section RaiseError
variable (e : ErrorCode) (s : State)

/-- A rejection writes ERR and ERRCODE and nothing else (R222, R224). -/
theorem raiseError_eq : raiseError e s =
    { s with err := true, errcode := if s.err = false then errorNumber e else s.errcode } := by
  cases s
  rename_i err _ _ _ _ _
  cases err <;> rfl

@[simp] theorem raiseError_err : (raiseError e s).err = true := by rw [raiseError_eq]
@[simp] theorem raiseError_errcode : (raiseError e s).errcode =
    if s.err = false then errorNumber e else s.errcode := by rw [raiseError_eq]
@[simp] theorem raiseError_lifecycle : (raiseError e s).lifecycle = s.lifecycle := by
  rw [raiseError_eq]
@[simp] theorem raiseError_var : (raiseError e s).var = s.var := by rw [raiseError_eq]
@[simp] theorem raiseError_h : (raiseError e s).h = s.h := by rw [raiseError_eq]
@[simp] theorem raiseError_n : (raiseError e s).n = s.n := by rw [raiseError_eq]
@[simp] theorem raiseError_sigma : (raiseError e s).sigma = s.sigma := by rw [raiseError_eq]
@[simp] theorem raiseError_buf : (raiseError e s).buf = s.buf := by rw [raiseError_eq]
@[simp] theorem raiseError_plen : (raiseError e s).plen = s.plen := by rw [raiseError_eq]
@[simp] theorem raiseError_dig : (raiseError e s).dig = s.dig := by rw [raiseError_eq]
@[simp] theorem raiseError_pend : (raiseError e s).pend = s.pend := by rw [raiseError_eq]
@[simp] theorem raiseError_requests : (raiseError e s).requests = s.requests := by
  rw [raiseError_eq]
@[simp] theorem raiseError_replies : (raiseError e s).replies = s.replies := by rw [raiseError_eq]
@[simp] theorem raiseError_draws : (raiseError e s).draws = s.draws := by rw [raiseError_eq]

end RaiseError

end Sys2Proof.Machine
end

