-- ==== Sys2Proof/Laws/Ops.lean ====
section
/-!
SUPPORT. For each shared operation one lemma that says once everything it can do.
-/

namespace Sys2Proof.Machine

theorem getElem_pad (B : Bytes64) (plen i : Nat) (hi : i < 64) :
    (pad B plen)[i] = if i < plen then B[i] else if i = plen then 0x01#8 else 0x00#8 := by
  simp [pad]

theorem getElem_upperHalf (h : Bytes64) (i : Nat) (hi : i < 64) :
    (upperHalf h)[i] = if hlt : i < 32 then h[i + 32] else 0x00#8 := by
  simp [upperHalf]

/-- The acceptance checks have three outcomes (R98, R223). -/
theorem whenAccepted_cases (effect : State → State) (s : State) :
    (s.pend ≠ none ∧ whenAccepted effect s = raiseError .ebusy s) ∨
    (s.pend = none ∧ s.lifecycle ≠ .active ∧ whenAccepted effect s = raiseError .eseq s) ∨
    (s.pend = none ∧ s.lifecycle = .active ∧ whenAccepted effect s = effect s) := by
  unfold whenAccepted State.busy
  rcases hp : s.pend with _ | p
  · by_cases hl : s.lifecycle = .active
    · exact .inr (.inr ⟨rfl, hl, by simp [hl]⟩)
    · exact .inr (.inl ⟨rfl, hl, by simp [hl]⟩)
  · exact .inl ⟨by simp, by simp⟩

/-- A DATA push has three outcomes (R141). -/
theorem dataPush_cases (P : Params) (b : Byte) (s : State) :
    (s.pend = none ∧ dataPush P b s = raiseError .edata s) ∨
    (∃ p, s.pend = some p ∧ p.collected.length + 1 < p.count ∧
      dataPush P b s = { s with pend := some { p with collected := p.collected ++ [b] } }) ∨
    (∃ p, s.pend = some p ∧ p.count ≤ p.collected.length + 1 ∧
      dataPush P b s = completePending P p.op (p.collected ++ [b]) { s with pend := none }) := by
  unfold dataPush
  rcases hp : s.pend with _ | p
  · exact .inl ⟨rfl, rfl⟩
  · by_cases hc : p.collected.length + 1 < p.count
    · exact .inr (.inl ⟨p, rfl, hc, by simp [hc]⟩)
    · exact .inr (.inr ⟨p, rfl, by omega, by simp [hc]⟩)

/-- Two states that differ at most in the five fields absorption writes (R35, R142). -/
def SameButAbsorbed (s t : State) : Prop :=
  t = { s with h := t.h, n := t.n, sigma := t.sigma, buf := t.buf, plen := t.plen }

theorem SameButAbsorbed.refl (s : State) : SameButAbsorbed s s := rfl

theorem SameButAbsorbed.trans {s t u : State} (h : SameButAbsorbed s t) (k : SameButAbsorbed t u) :
    SameButAbsorbed s u := by
  unfold SameButAbsorbed at *
  rw [k, h]

theorem absorbBlocks_frame (P : Params) (count : Nat) (d : List Byte) (s : State) :
    SameButAbsorbed s (absorbBlocks P count d s) := by
  induction count generalizing d s with
  | zero => exact .refl s
  | succ count ih => exact .trans (t := compressBlock P (padZeros (d.take 64)) s) rfl (ih _ _)

/-- Phase 2 leaves the partial buffer alone (R144). -/
theorem absorbBlocks_buffer (P : Params) (count : Nat) (d : List Byte) (s : State) :
    (absorbBlocks P count d s).buf = s.buf ∧ (absorbBlocks P count d s).plen = s.plen := by
  induction count generalizing d s with
  | zero => exact ⟨rfl, rfl⟩
  | succ count ih => exact ih _ _

/-- Phase 2 adds 512 to the counter for each block (R146). -/
theorem absorbBlocks_n (P : Params) (count : Nat) (d : List Byte) (s : State) :
    (absorbBlocks P count d s).n = s.n + BitVec.ofNat 512 (512 * count) := by
  induction count generalizing d s with
  | zero => simp [absorbBlocks]
  | succ count ih =>
    rw [absorbBlocks, ih, compressBlock_n, BitVec.add_assoc, ← BitVec.ofNat_add]
    congr 2
    omega

theorem keepRemainder_frame (r : List Byte) (s : State) : SameButAbsorbed s (keepRemainder r s) := by
  unfold keepRemainder
  split <;> rfl

theorem absorbAligned_frame (P : Params) (d : List Byte) (s : State) :
    SameButAbsorbed s (absorbAligned P d s) :=
  .trans (absorbBlocks_frame P _ d s) (keepRemainder_frame _ _)

/-- Absorption writes `H`, `N`, `SIGMA`, `BUF` and `PLEN` and nothing else (R35, R142). -/
theorem absorb_frame (P : Params) (d : List Byte) (s : State) : SameButAbsorbed s (absorb P d s) := by
  unfold absorb
  dsimp only
  split
  · split
    · exact .trans (t := emptyBuffer (compressBlock P _ s)) rfl (absorbAligned_frame P _ _)
    · rfl
  · exact absorbAligned_frame P d s

theorem absorbSerial_nil (P : Params) (s : State) : absorbSerial P [] s = s := rfl

theorem absorbSerial_append (P : Params) (d e : List Byte) (s : State) :
    absorbSerial P (d ++ e) s = absorbSerial P e (absorbSerial P d s) := by
  simp [absorbSerial, List.foldl_append]

/-- The last payload byte writes no more than absorption does (R141, R201). -/
theorem completePending_frame (P : Params) (op : PendOp) (d : List Byte) (s : State) :
    SameButAbsorbed s (completePending P op d s) := by
  cases op
  · exact absorb_frame P d s
  · rfl

end Sys2Proof.Machine
end

