-- ==== Sys2Proof/Laws/PerInstr.lean ====
section
/-!
SUPPORT. A statement about every instruction as syntax, one lemma per constructor: the encoder's word lies
in the instruction's own row of spec/opcode_table.json.
-/

namespace Sys2Proof.Laws.TableRow

/-- The match and mask of an instruction's row (spec/opcode_table.json). -/
def row : Instr → Word × Word
  | .init _ => (0x00000001#32, 0xFFFFFFEF#32)
  | .update _ => (0x00000002#32, 0x000000FF#32)
  | .final => (0x00000003#32, 0xFFFFFFFF#32)
  | .loadpart _ => (0x00000004#32, 0xFFFFC0FF#32)
  | .clrerr => (0x00000005#32, 0xFFFFFFFF#32)
  | .data _ => (0x00000000#32, 0x00000000#32)

/-- The fixed bits of the row hold in the word of an instruction some word encodes. -/
def Statement (i : Instr) : Prop := i.WellFormed → encode i &&& (row i).2 = (row i).1

theorem init (v : Variant) : Statement (.init v) := fun _ => by
  cases v <;> rfl

theorem update (n : Nat) : Statement (.update n) := fun _ => by
  simp only [encode, row]
  ext i hi
  simp only [BitVec.getElem_and, BitVec.getElem_or, BitVec.getElem_shiftLeft]
  interval_cases i <;> simp

theorem final : Statement .final := fun _ => rfl

theorem loadpart (k : Nat) : Statement (.loadpart k) := fun hk => by
  have hk : k < 64 := of_decide_eq_true hk
  simp only [encode, row]
  interval_cases k <;> rfl

theorem clrerr : Statement .clrerr := fun _ => rfl

theorem data (w : Word) : Statement (.data w) := fun _ => by
  simp [encode, row]

end Sys2Proof.Laws.TableRow
end

