-- ==== Sys2Proof/Laws/Step.lean ====
section
/-!
SUPPORT. What an instruction, an access and a step can do, said once: every invariant and every
whole-machine rule is a case analysis over these.
-/

namespace Sys2Proof.Machine

/-- A step performs the next access of the host (R72). -/
theorem step_next {s t : State} (h : step s = .next t) :
    ∃ a rest, s.requests = a :: rest ∧ performAccess a { s with requests := rest } = .next t := by
  unfold step nextAccess at h
  rcases hr : s.requests with _ | ⟨a, rest⟩
  · simp [hr] at h
  · exact ⟨a, rest, rfl, by simpa [hr] using h⟩

/-- A read that answers changes the host's side of the bus alone (R65). -/
theorem performAccess_read {w : AccessWidth} {off : Nat} {s t : State}
    (h : performAccess (.read w off) s = .next t) :
    definedAccess w off = true ∧ t = hostRead off s := by
  simp only [performAccess] at h
  split at h
  · rename_i hd
    injection h with h
    exact ⟨hd, h.symm⟩
  · simp at h

/-- A write that answers is a rejected command word, an instruction, or is ignored (R79, R98). -/
theorem performAccess_write {w : AccessWidth} {off : Nat} {v : Word} {s t : State}
    (h : performAccess (.write w off v) s = .next t) :
    definedAccess w off = true ∧
      ((off = 0x000 ∧ ∃ e, decodeCommand v = .error e ∧ t = raiseError e s) ∨
       (off = 0x000 ∧ ∃ i, decodeCommand v = .ok i ∧ exec i s = .next t) ∨
       (off = 0x008 ∧ exec (.data v) s = .next t) ∨
       (off ≠ 0x000 ∧ off ≠ 0x008 ∧ t = s)) := by
  simp only [performAccess] at h
  split at h
  · rename_i hd
    refine ⟨hd, ?_⟩
    unfold regWrite regAt at h
    by_cases h0 : off = 0x000
    · simp only [h0, if_true, command] at h
      rcases hc : decodeCommand v with e | i
      · exact .inl ⟨h0, e, rfl, by simpa [hc] using h.symm⟩
      · exact .inr (.inl ⟨h0, i, rfl, by simpa [hc] using h⟩)
    · by_cases h8 : off = 0x008
      · subst h8
        exact .inr (.inr (.inl ⟨rfl, h⟩))
      · refine .inr (.inr (.inr ⟨h0, h8, ?_⟩))
        simp only [h0, h8, if_false] at h
        split_ifs at h <;> simpa using h.symm
  · simp at h

/-- Every instruction answers a next state in every state: the block has no trap (R220). -/
theorem exec_answers (i : Instr) (s : State) : ∃ t, exec i s = .next t := by
  cases i <;> exact ⟨_, rfl⟩

/-- Everything an instruction can do: INIT and CLRERR always have their effect, any other is rejected with
an error code or, in ACTIVE, has its own effect, and a DATA word collects its byte or completes the pending
command, which writes no more than absorption does (R35). -/
theorem exec_cases {i : Instr} {s t : State} (h : exec i s = .next t) :
    (∃ v, i = .init v ∧ t = initContext Config.params v s) ∨
    (i = .clrerr ∧ t = { s with err := false, errcode := 0#4 }) ∨
    (∃ e, t = raiseError e s) ∨
    (s.pend = none ∧ s.lifecycle = .active ∧
      ((i = .update 0 ∧ t = s) ∨
       (i = .loadpart 0 ∧ t = loadPartial [] s) ∨
       (i = .final ∧ t = finalDigest Config.params s) ∨
       (∃ n, n ≠ 0 ∧ ((∃ op, (i = .update n ∧ op = .update ∨ i = .loadpart n ∧ op = .loadpart) ∧
         t = { s with pend := some { op := op, count := n, collected := [] } }))))) ∨
    (∃ w p, i = .data w ∧ s.pend = some p ∧
      ((p.collected.length + 1 < p.count ∧
          t = { s with pend := some { p with collected := p.collected ++ [dataByte w] } }) ∨
       (p.count ≤ p.collected.length + 1 ∧
          t = completePending Config.params p.op (p.collected ++ [dataByte w]) { s with pend := none }))) := by
  cases i with
  | init v => exact .inl ⟨v, rfl, by cases h; rfl⟩
  | clrerr => exact .inr (.inl ⟨rfl, by cases h; rfl⟩)
  | update n =>
    injection h with h
    subst h
    rcases whenAccepted_cases (fun s => if n = 0 then s else
      { s with pend := some { op := .update, count := n, collected := [] } }) s with
      ⟨_, e⟩ | ⟨_, _, e⟩ | ⟨hp, ha, e⟩
    · exact .inr (.inr (.inl ⟨_, e⟩))
    · exact .inr (.inr (.inl ⟨_, e⟩))
    · refine .inr (.inr (.inr (.inl ⟨hp, ha, ?_⟩)))
      rw [e]
      by_cases hn : n = 0
      · exact .inl ⟨by rw [hn], by simp [hn]⟩
      · exact .inr (.inr (.inr ⟨n, hn, .update, .inl ⟨rfl, rfl⟩, by simp [hn]⟩))
  | final =>
    injection h with h
    subst h
    rcases whenAccepted_cases (finalDigest Config.params) s with ⟨_, e⟩ | ⟨_, _, e⟩ | ⟨hp, ha, e⟩
    · exact .inr (.inr (.inl ⟨_, e⟩))
    · exact .inr (.inr (.inl ⟨_, e⟩))
    · exact .inr (.inr (.inr (.inl ⟨hp, ha, .inr (.inr (.inl ⟨rfl, e⟩))⟩)))
  | loadpart n =>
    injection h with h
    subst h
    rcases whenAccepted_cases (fun s => if n = 0 then loadPartial [] s else
      { s with pend := some { op := .loadpart, count := n, collected := [] } }) s with
      ⟨_, e⟩ | ⟨_, _, e⟩ | ⟨hp, ha, e⟩
    · exact .inr (.inr (.inl ⟨_, e⟩))
    · exact .inr (.inr (.inl ⟨_, e⟩))
    · refine .inr (.inr (.inr (.inl ⟨hp, ha, ?_⟩)))
      rw [e]
      by_cases hn : n = 0
      · exact .inr (.inl ⟨by rw [hn], by simp [hn]⟩)
      · exact .inr (.inr (.inr ⟨n, hn, .loadpart, .inr ⟨rfl, rfl⟩, by simp [hn]⟩))
  | data w =>
    injection h with h
    subst h
    rcases dataPush_cases Config.params (dataByte w) s with ⟨_, e⟩ | ⟨p, hp, hc, e⟩ | ⟨p, hp, hc, e⟩
    · exact .inr (.inr (.inl ⟨_, e⟩))
    · exact .inr (.inr (.inr (.inr ⟨w, p, rfl, hp, .inl ⟨hc, e⟩⟩)))
    · exact .inr (.inr (.inr (.inr ⟨w, p, rfl, hp, .inr ⟨hc, e⟩⟩)))

/-- A word that decodes as a command decodes to one of the five (R94). -/
theorem decodeCommand_port {w : Word} {i : Instr} (h : decodeCommand w = .ok i) : i.port = .cmd := by
  unfold decodeCommand at h
  split at h
  · simp at h
  · split at h
    · simp at h
    · injection h with h
      subst h
      unfold commandOf
      split_ifs <;> rfl

end Sys2Proof.Machine
end

