-- ==== Sys2Proof/Tests/Slice0.lean ====
section
/-!
SUPPORT. The model's own tests. Expected values come from spec/95_test_vectors.md (each test names its
vector) or from the encoding tables of spec/30_encoding.md. Vectors that name a value of `H` or `DIG` are
checked under the toy transform of spec/95_test_vectors.md, which the operations take as a parameter. The
second half holds, for each statement with hypotheses, a concrete case that meets them.
-/

namespace Sys2Proof.Machine.Tests

/-! ### WellFormed: a term each check refuses -/

theorem test_update_count_too_large_is_ill_formed : (Instr.update 16777216).wellFormed = false := by
  decide

theorem test_loadpart_count_too_large_is_ill_formed : (Instr.loadpart 64).wellFormed = false := by
  decide

/-! ### Decoding of words written out bit by bit from R91 -/

/-- INIT: 27 reserved zeros, V = 1, OP = 0001. -/
theorem test_decode_init :
    decode .cmd 0b00000000000000000000000000010001#32 = .ok (.init .v256) := by decide

/-- UPDATE: COUNT24 = 1 and its top bit, 0000, OP = 0010. -/
theorem test_decode_update :
    decode .cmd 0b10000000000000000000000100000010#32 = .ok (.update 8388609) := by decide

/-- FINAL: 28 reserved zeros, OP = 0011. -/
theorem test_decode_final :
    decode .cmd 0b00000000000000000000000000000011#32 = .ok .final := by decide

/-- LOADPART: 18 reserved zeros, COUNT6 = 100001, 0000, OP = 0100. -/
theorem test_decode_loadpart :
    decode .cmd 0b00000000000000000010000100000100#32 = .ok (.loadpart 33) := by decide

/-- CLRERR: 28 reserved zeros, OP = 0101. -/
theorem test_decode_clrerr :
    decode .cmd 0b00000000000000000000000000000101#32 = .ok .clrerr := by decide

/-- DATA: ignored bits, then the byte 01100010. -/
theorem test_decode_data :
    decode .data 0b00010010001101000101011001100010#32 = .ok (.data 0x12345662#32)
      ∧ dataByte 0x12345662#32 = 0x62#8 := by decide

/-- V-I10, V-D7, V-F8, V-L5: a reserved bit of a defined opcode. -/
theorem test_decode_reserved_fields :
    decode .cmd 0x00000021#32 = .error .efield ∧ decode .cmd 0x00000112#32 = .error .efield
      ∧ decode .cmd 0x00000013#32 = .error .efield ∧ decode .cmd 0x00004004#32 = .error .efield := by
  decide

/-- V-E1, V-E2, V-E4: reserved opcodes. -/
theorem test_decode_reserved_opcodes :
    decode .cmd 0x00000000#32 = .error .eopc ∧ decode .cmd 0x00000006#32 = .error .eopc
      ∧ decode .cmd 0x00000007#32 = .error .eopc ∧ decode .cmd 0x0000000F#32 = .error .eopc := by
  decide

/-- The table's rows, read by number: each CMD row's match, and 0 for DATA, which fixes no bit. -/
theorem test_table_words :
    decodeTableWord 32 0x1 = some (.init .v512) ∧ decodeTableWord 32 0x2 = some (.update 0)
      ∧ decodeTableWord 32 0x3 = some .final ∧ decodeTableWord 32 0x4 = some (.loadpart 0)
      ∧ decodeTableWord 32 0x5 = some .clrerr ∧ decodeTableWord 32 0x0 = some (.data 0#32) := by
  decide

/-! ### Helpers -/

/-- A reset machine after `INIT 512`. -/
def active512 : State := initContext Config.params .v512 State.reset

/-- A reset machine after `INIT 256`. -/
def active256 : State := initContext Config.params .v256 State.reset

/-- `active512` with a pending command. -/
def pending (op : PendOp) (count : Nat) (col : List Byte) : State :=
  { active512 with pend := some { op := op, count := count, collected := col } }

/-- A DONE state whose last chaining value is zero. -/
def doneState : State := { State.reset with lifecycle := .done }

/-- `active512` holding 63 bytes of 0xAA. -/
def nearlyFull : State := loadPartial (List.replicate 63 0xAA#8) active512

/-- STATUS after an access, with the PLEN field drawn as 0 while BUSY. -/
def statusAfter (a : Access) (s : State) : Option Word :=
  match performAccess a s with
  | .next t => some (readReg t 0#32 .status)
  | .fault _ => none
  | .refused _ => none

/-- A 32-bit write to CMD. -/
def cmd (w : Word) : Access := .write .w32 0x000 w

/-- A 32-bit write to DATA. -/
def data (w : Word) : Access := .write .w32 0x008 w

/-- The toy transform of spec/95_test_vectors.md:
`bytes512((2 * (int512(h) XOR int512(k)) + int512(m)) mod 2^512)`. -/
def toy : Params where
  G := fun h k m => bytes512 (2#512 * (int512 h ^^^ int512 k) + int512 m)
  iv512 := Config.iv512
  iv256 := Config.iv256
  iv_ne := Config.iv_ne

/-- The bytes 0x00 .. 0x3F. -/
def b64 : List Byte := (List.range 64).map (BitVec.ofNat 8)

/-- `Q[i] = (7i + 3) mod 256`, 130 bytes. -/
def q130 : List Byte := (List.range 130).map fun i => BitVec.ofNat 8 (7 * i + 3)

/-! ### INIT, CLRERR and errors: STATUS after one access -/

/-- V-I2, V-I3: STATUS, and H0..H15 all read 0x01010101 after `INIT 256`. -/
theorem test_init_status :
    statusAfter (cmd 0x00000001#32) State.reset = some 0x00000002#32
      ∧ statusAfter (cmd 0x00000011#32) State.reset = some 0x0000000A#32
      ∧ ∀ j : Fin 16, readReg active256 0#32 (.h j) = 0x01010101#32 := by decide +kernel

/-- V-I5, V-I9: INIT abandons a pending UPDATE, a DATA write then is EDATA; INIT keeps the error report. -/
theorem test_init_abandons :
    statusAfter (cmd 0x00000011#32) (pending .update 2 [0x61#8]) = some 0x0000000A#32
      ∧ statusAfter (data 0x62#32) active256 = some 0x0000042A#32
      ∧ statusAfter (cmd 0x00000001#32) (raiseError .eseq State.reset) = some 0x00000122#32 := by
  decide +kernel

/-- V-I7, V-I8: CLRERR clears the report; a pending command stays pending. -/
theorem test_clrerr_status :
    statusAfter (cmd 0x00000005#32) (raiseError .eopc State.reset) = some 0x00000000#32
      ∧ statusAfter (cmd 0x00000005#32) (pending .update 2 []) = some 0x02000003#32 := by
  decide +kernel

/-- V-F9, V-D5, V-D8, V-L6, V-E1: ESEQ in IDLE, for a count of 0 too; the first error is kept. -/
theorem test_eseq_in_idle :
    statusAfter (cmd 0x00000003#32) State.reset = some 0x00000120#32
      ∧ statusAfter (cmd 0x00000002#32) State.reset = some 0x00000120#32
      ∧ statusAfter (cmd 0x00003F04#32) State.reset = some 0x00000120#32
      ∧ statusAfter (cmd 0x00000302#32) (raiseError .eopc State.reset) = some 0x00000220#32 := by
  decide +kernel

/-- V-F7, V-E3, V-E4: EBUSY, but EFIELD and EOPC come first. -/
theorem test_priority_while_pending :
    statusAfter (cmd 0x00000003#32) (pending .update 2 []) = some 0x02000523#32
      ∧ statusAfter (cmd 0x00000012#32) (pending .update 2 []) = some 0x02000323#32
      ∧ statusAfter (cmd 0x00000007#32) (pending .update 2 []) = some 0x02000223#32 := by
  decide +kernel

/-- V-D6, V-F6: ESEQ in DONE, DVALID kept. -/
theorem test_eseq_in_done :
    statusAfter (cmd 0x00000102#32) doneState = some 0x00000134#32
      ∧ statusAfter (cmd 0x00000003#32) doneState = some 0x00000134#32 := by decide +kernel

/-! ### UPDATE, DATA and LOADPART -/

/-- V-D3: BUSY with PENDOP 2 and REMAIN 2. -/
theorem test_update_pending :
    statusAfter (data 0x61#32) (pending .update 3 []) = some 0x02000003#32
      ∧ regRead (pending .update 3 [0x61#8]) 0x00C = 2#32 := by decide +kernel

/-- V-D1: EDATA with nothing pending. -/
theorem test_edata : statusAfter (data 0x61#32) active512 = some 0x00000422#32 := by decide +kernel

/-- V-D2, V-D4: the last byte completes the command; bits [31:8] are ignored. -/
theorem test_update_completes :
    statusAfter (data 0x12345662#32) (pending .update 2 [0x61#8]) = some 0x00020002#32
      ∧ int512 (absorb toy [0x61#8, 0x62#8] active512).buf = 0x6261#512 := by decide +kernel

/-- V-U4: 63 bytes and then 1 fill the buffer exactly; V-U6: a top-up completes the second block,
which is keyed by 0x200, under the toy transform. -/
theorem test_absorb_keys :
    let u := absorb toy (b64.drop 63) (absorb toy (b64.take 63) active512)
    let t := absorb toy (q130.drop 100) (absorb toy (q130.take 100) active512)
    u.n = 0x200#512 ∧ u.plen = 0 ∧ u.buf = zeros64 ∧ int512 u.h = int512 (padZeros b64)
      ∧ t.n = 0x400#512 ∧ t.plen = 2 ∧ int512 t.buf = 0x8a83#512
      ∧ t.sigma = 0x392b1d0f00f2e4d6c8baac9e90827466584b3d2f211304f6e8dacdbfb1a39587796b5d4f4133251708faecded0c2b4a6988a7c6e60524537291b0cfef0e2d4c6#512
      ∧ int512 t.h = 0xf5e0cbb6a18c77624d38230df8e3ceb9a4907b66513c2711fce7d4bfaa95806b56412c1701ecd7c2ad98836e59442f1a04efdac5b09b87725d48331e08f3dac9#512 := by
  decide +kernel

/-- V-L1: M1 in the buffer, H, N and SIGMA untouched, LEN 0x1F8. -/
theorem test_loadpart_m1 :
    let t := loadPartial selfTestVector active512
    t.plen = 63 ∧ t.h = zeros64 ∧ t.n = 0#512 ∧ t.sigma = 0#512 ∧ t.len = 0x1F8#512
      ∧ int512 t.buf = 0x323130393837363534333231303938373635343332313039383736353433323130393837363534333231303938373635343332313039383736353433323130#512 := by
  decide +kernel

/-- V-L3, V-L4: LOADPART replaces the buffered bytes; a count of 0 empties the buffer at once. -/
theorem test_loadpart_replaces :
    statusAfter (data 0x41#32) { nearlyFull with pend := some ⟨.loadpart, 1, []⟩ } = some 0x00010002#32
      ∧ statusAfter (cmd 0x00000004#32) nearlyFull = some 0x00000002#32 := by decide +kernel

/-! ### FINAL, under the toy transform -/

/-- V-F2: the empty message under V256: the upper half alone is selected. -/
theorem test_final_empty_256 :
    let t := finalDigest toy active256
    readReg t 0#32 (.dig 0) = 0x08080808#32 ∧ readReg t 0#32 (.dig 7) = 0x08080808#32
      ∧ readReg t 0#32 (.dig 8) = 0#32 ∧ readReg t 0#32 (.h 0) = 0x0808080D#32
      ∧ readReg t 0#32 .status = 0x0000001C#32 := by decide +kernel

/-- V-F5: the self-test vector, with the marker in byte 63. -/
theorem test_final_m1 :
    int512 (finalDigest toy (loadPartial selfTestVector active512)).dig
      = 0x05faf5f11e19140f0a04fffaf5f11e19140f0a04fffaf5f11e19140f0a04fffaf5f11e19140f0a04fffaf5f11e19140f0a04fffaf5f11e19140f0a04fffaf9e0#512 := by
  decide +kernel

/-- P5: 130 bytes, in one chunk, by the reference description of the digest. -/
theorem test_streebog_q :
    int512 (streebog toy .v512 q130)
      = 0xe8317ac40d569fe9327bc50e57a0ea337ccf1861aaf43d86d01973bd064f98e22b74be075099e32c75bf08519ae42d76c009529be52e80ca135ca5ef388987bd#512 := by
  decide +kernel

/-! ### Registers and the step -/

/-- V-R1, V-R2, V-R4: write-only and reserved offsets read 0; a write to STATUS is ignored. -/
theorem test_register_directions :
    regRead nearlyFull 0x000 = 0#32 ∧ regRead nearlyFull 0x008 = 0#32
      ∧ regRead nearlyFull 0x010 = 0#32 ∧ regRead nearlyFull 0x0FC = 0#32
      ∧ statusAfter (.write .w32 0x004 0xFFFFFFFF#32) nearlyFull = some 0x003F0002#32 := by
  decide +kernel

/-- V-L1: LEN0 reads 0x1F8 and LEN1 reads 0. -/
theorem test_len_registers :
    regRead nearlyFull 0x040 = 0x1F8#32 ∧ regRead nearlyFull 0x044 = 0#32 := by decide +kernel

/-- R62: a byte access, a misaligned one and one above the window are refused; R152: with no access there
is no step. -/
theorem test_refusals :
    performAccess (.read .w8 0x004) active512 = .refused .undefinedAccess
      ∧ performAccess (.write .w32 0x002 0#32) active512 = .refused .undefinedAccess
      ∧ performAccess (.read .w32 0x200) active512 = .refused .undefinedAccess
      ∧ step State.reset = .refused .noHostAccess := ⟨rfl, rfl, rfl, rfl⟩

/-- The next step after `withFetchWord` performs that word; the access is gone afterwards. -/
theorem test_step_init :
    step (State.reset.withFetchWord 32 0x11) = .next active256 := rfl

/-- V-I1: reset gives the reset state back. -/
theorem test_reset_access : performAccess .reset active256 = .next State.reset := rfl

/-! ### A case for every statement with hypotheses -/

theorem zeroTail_active512 : active512.ZeroTail := fun i _ => by
  show active512.buf[i] = 0x00#8
  revert i
  decide +kernel

theorem zeroTail_nearlyFull : nearlyFull.ZeroTail := by
  intro i hi
  revert i
  decide +kernel

theorem inv_active512 : active512.Inv where
  zero_tail := zeroTail_active512
  idle_cleared := by intro h; cases h
  active_counter := by intro _; decide +kernel
  done_empty := by intro h; cases h
  not_done_blank := fun _ => ⟨rfl, rfl⟩
  done_window := by intro h; cases h
  pending_active := by intro _ h; cases h
  errcode_cleared := fun _ => rfl
  errcode_produced := by intro h; cases h

theorem inv_pending : (pending .update 2 [0x61#8]).Inv where
  zero_tail := zeroTail_active512
  idle_cleared := by intro h; cases h
  active_counter := by intro _; decide +kernel
  done_empty := by intro h; cases h
  not_done_blank := fun _ => ⟨rfl, rfl⟩
  done_window := by intro h; cases h
  pending_active := by
    intro p h
    injection h with h
    subst h
    exact ⟨rfl, by decide, by decide⟩
  errcode_cleared := fun _ => rfl
  errcode_produced := by intro h; cases h

theorem inv_doneState : doneState.Inv where
  zero_tail := by
    intro i _
    show doneState.buf[i] = 0x00#8
    revert i
    decide +kernel
  idle_cleared := by intro h; cases h
  active_counter := by intro h; cases h
  done_empty := fun _ => ⟨rfl, rfl, rfl⟩
  not_done_blank := fun h => absurd rfl h
  done_window := by intro _; decide +kernel
  pending_active := by intro _ h; cases h
  errcode_cleared := fun _ => rfl
  errcode_produced := by intro h; cases h

/-- The invariants say nothing of the host's side of the bus. -/
theorem inv_with_requests {s : State} (rs : List Access) (h : s.Inv) :
    State.Inv { s with requests := rs } where
  zero_tail := h.zero_tail
  idle_cleared := h.idle_cleared
  active_counter := h.active_counter
  done_empty := h.done_empty
  not_done_blank := h.not_done_blank
  done_window := h.done_window
  pending_active := h.pending_active
  errcode_cleared := h.errcode_cleared
  errcode_produced := h.errcode_produced

theorem witness_DecodeOfEncodeIsTheInstruction :
    (Instr.update 16777215).WellFormed ∧ (Instr.loadpart 63).WellFormed
      ∧ (Instr.update 0).WellFormed ∧ (Instr.data 0xFFFFFFFF#32).WellFormed := by decide

theorem witness_EncodeOfDecodeIsTheWord :
    decode .cmd 0x00003F04#32 = .ok (.loadpart 63) ∧ decode .cmd 0xFFFFFF02#32 = .ok (.update 16777215)
      ∧ decode .data 0xFFFFFFFF#32 = .ok (.data 0xFFFFFFFF#32) := by decide

theorem witness_ReservedOpcodeRaisesEopc :
    (0x00000000#32).toNat % 16 = 0 ∧ 6 ≤ (0x00000006#32).toNat % 16
      ∧ 6 ≤ (0xFFFFFFFF#32).toNat % 16 := by decide

theorem witness_ReservedFieldRaisesEfield :
    ((0x21#32).toNat % 16 = 1 ∧ 0x21#32 &&& 0xFFFFFFE0#32 ≠ 0#32)
      ∧ ((0x12#32).toNat % 16 = 2 ∧ 0x12#32 &&& 0x000000F0#32 ≠ 0#32)
      ∧ ((0x80000003#32).toNat % 16 = 3 ∧ 0x80000003#32 &&& 0xFFFFFFF0#32 ≠ 0#32)
      ∧ ((0x4004#32).toNat % 16 = 4 ∧ 0x4004#32 &&& 0xFFFFC0F0#32 ≠ 0#32)
      ∧ ((0x15#32).toNat % 16 = 5 ∧ 0x15#32 &&& 0xFFFFFFF0#32 ≠ 0#32)
      ∧ (63 < 64 ∧ 64 < 16777216) ∧ (63 < 16777215 ∧ 16777215 < 16777216) := by decide

theorem witness_WriteOfAnEncodedWordPerformsIt :
    (Instr.loadpart 63).WellFormed ∧ (Instr.loadpart 63).port = .cmd := by decide

theorem witness_DataIgnoresTheUpperBits :
    (0xFFFFFF61#32).toNat % 256 = (0x00000061#32).toNat % 256 := by decide

theorem witness_StepPerformsTheNextAccess :
    (State.reset.withFetchWord 32 0x3).requests = cmd 0x3#32 :: [] ∧ State.reset.requests = [] :=
  ⟨rfl, rfl⟩

theorem witness_StepRunsTheDecodedInstruction :
    (State.reset.withFetchWord 32 0x11).requests = .write .w32 0x000 0x11#32 :: []
      ∧ decode .cmd 0x11#32 = .ok (.init .v256)
      ∧ (State.reset.withFetchWord 32 0x0).requests = .write .w32 0x008 0x0#32 :: []
      ∧ decode .data 0x0#32 = .ok (.data 0x0#32) := ⟨rfl, by decide, rfl, by decide⟩

theorem witness_OnlyUndefinedAccessesAreRefused :
    (AccessWidth.burst ≠ .w32) ∧ (0x1FD % 4 ≠ 0) ∧ (0x1FC < 0x200)
      ∧ (0x000 % 4 = 0 ∧ 0x000 ≤ 0x1FC) ∧ (0x1FC % 4 = 0 ∧ 0x1FC ≤ 0x1FC) := by decide

theorem witness_RaiseErrorKeepsTheFirst :
    active512.err = false ∧ (raiseError .eopc active512).err = true := ⟨rfl, rfl⟩

/-- The three commands the acceptance checks are about, each at a bound of its count. -/
theorem witness_commands : ∀ i ∈ [Instr.final, .update 0, .update 16777215, .loadpart 0, .loadpart 63],
    i = .final ∨ (∃ n, i = .update n) ∨ ∃ k, i = .loadpart k := by simp

theorem witness_PendingCommandMakesOthersBusy :
    (Instr.update 0 = .final ∨ (∃ n, Instr.update 0 = .update n) ∨ ∃ k, Instr.update 0 = .loadpart k)
      ∧ (pending .loadpart 63 []).pend ≠ none := ⟨.inr (.inl ⟨0, rfl⟩), fun h => nomatch h⟩

theorem witness_CommandsOutsideActiveRaiseEseq :
    (Instr.update 0 = .final ∨ (∃ n, Instr.update 0 = .update n) ∨ ∃ k, Instr.update 0 = .loadpart k)
      ∧ (State.reset.pend = none ∧ State.reset.lifecycle ≠ .active)
      ∧ (doneState.pend = none ∧ doneState.lifecycle ≠ .active) :=
  ⟨.inr (.inl ⟨0, rfl⟩), ⟨rfl, fun h => nomatch h⟩, rfl, fun h => nomatch h⟩

theorem witness_RejectionLeavesTheContext :
    performAccess (cmd 0x3#32) doneState = .next (raiseError .eseq doneState)
      ∧ doneState.err = false ∧ (raiseError .eseq doneState).err = true := ⟨rfl, rfl, rfl⟩

theorem witness_ErrorReportIsSticky :
    performAccess (cmd 0x1#32) (raiseError .eseq State.reset)
        = .next (initContext Config.params .v512 (raiseError .eseq State.reset))
      ∧ (raiseError .eseq State.reset).err = true ∧ cmd 0x1#32 ≠ .reset
      ∧ cmd 0x1#32 ≠ .write .w32 0x000 0x00000005#32 := ⟨rfl, rfl, by decide, by decide⟩

theorem witness_InitForgetsTheMessage :
    active256.err = nearlyFull.err ∧ active256.errcode = nearlyFull.errcode
      ∧ active256.requests = nearlyFull.requests ∧ active256.replies = nearlyFull.replies
      ∧ active256.draws = nearlyFull.draws ∧ active256.plen ≠ nearlyFull.plen := by decide +kernel

theorem witness_UpdateBecomesPending :
    0 < 1 ∧ 0 < 16777215 ∧ 16777215 < 16777216 ∧ active512.lifecycle = .active
      ∧ active512.pend = none := by decide +kernel

theorem witness_LoadpartBecomesPending :
    0 < 1 ∧ 0 < 63 ∧ 63 ≤ 63 ∧ nearlyFull.lifecycle = .active ∧ nearlyFull.pend = none := by
  decide +kernel

theorem witness_DataCollectsOrRaisesEdata :
    active512.pend = none
      ∧ (pending .loadpart 63 []).pend = some { op := .loadpart, count := 63, collected := [] }
      ∧ ([] : List Byte).length + 1 < 63 := ⟨rfl, rfl, by decide⟩

theorem witness_LastByteOfAnUpdateAbsorbs :
    (pending .update 2 [0x61#8]).pend = some { op := .update, count := 2, collected := [0x61#8] }
      ∧ 2 = [0x61#8].length + 1 ∧ (pending .update 2 [0x61#8]).ZeroTail :=
  ⟨rfl, rfl, zeroTail_active512⟩

theorem witness_UpdateCompletionFrame :
    (pending .update 1 []).pend = some { op := .update, count := 1, collected := [] }
      ∧ 1 ≤ ([] : List Byte).length + 1 := ⟨rfl, by decide⟩

theorem witness_LastByteOfALoadpartLoads :
    let col : List Byte := List.replicate 62 0xAA#8
    (pending .loadpart 63 col).pend = some { op := .loadpart, count := 63, collected := col }
      ∧ 63 = col.length + 1 ∧ 63 ≤ 63 := ⟨rfl, rfl, by decide⟩

theorem witness_LoadpartAfterInitActsAsUpdate :
    ([] : List Byte).length ≤ 63 ∧ (List.replicate 63 0xAA#8).length ≤ 63 := by decide

theorem witness_AbsorbIsByteSerial : active512.ZeroTail ∧ nearlyFull.ZeroTail :=
  ⟨zeroTail_active512, zeroTail_nearlyFull⟩

theorem witness_AbsorptionIgnoresChunking : active512.ZeroTail ∧ nearlyFull.ZeroTail :=
  ⟨zeroTail_active512, zeroTail_nearlyFull⟩

theorem witness_UpdateAddsItsBitsToLen :
    (pending .update 2 [0x61#8]).pend = some { op := .update, count := 2, collected := [0x61#8] }
      ∧ 2 = [0x61#8].length + 1 := ⟨rfl, rfl⟩

theorem witness_UpdateWithItsPayloadAbsorbsIt :
    ([] : List Word).length < 16777216 ∧ [0x61#32].length < 16777216 ∧ active512.lifecycle = .active
      ∧ active512.pend = none := ⟨by decide, by decide, rfl, rfl⟩

theorem witness_FinalSelectsTheDigest :
    nearlyFull.lifecycle = .active ∧ nearlyFull.pend = none := ⟨rfl, rfl⟩

theorem witness_PaddingSetsTheMarkerBit : active512.ZeroTail ∧ nearlyFull.ZeroTail :=
  ⟨zeroTail_active512, zeroTail_nearlyFull⟩

theorem witness_HashingAMessageGivesItsDigest :
    ∀ c ∈ [[0x61#32, 0x62#32], [], [0x63#32]], c.length < 16777216 := by decide

theorem witness_RegisterMapIsR61 :
    Reg.cmd ≠ .reserved ∧ Reg.buf 15 ≠ .reserved
      ∧ (∀ off ∈ [0x000, 0x00C, 0x040, 0x0BC, 0x100, 0x1FC],
          off % 4 = 0 ∧ off ≤ 0x1FC ∧ regAt off ≠ .reserved)
      ∧ ∀ off ∈ [0x00C, 0x010, 0x03C, 0x040, 0x0BC, 0x0C0, 0x0FC, 0x100, 0x1FC],
          off % 4 = 0 ∧ off ≤ 0x1FC := by decide

theorem witness_StatusReadsItsFields : nearlyFull.pend = none := rfl

theorem witness_ReadsWhileBusy :
    (pending .update 2 [0x61#8]).Inv
      ∧ (pending .update 2 [0x61#8]).pend = some ⟨.update, 2, [0x61#8]⟩ := ⟨inv_pending, rfl⟩

theorem witness_ContextReadsWhenIdle : nearlyFull.pend = none := rfl

theorem witness_ReadsHaveNoSideEffect :
    0x000 % 4 = 0 ∧ 0x000 ≤ 0x1FC ∧ 0x1FC % 4 = 0 ∧ 0x1FC ≤ 0x1FC ∧ nearlyFull.pend = none := by
  decide +kernel

theorem witness_OtherOffsetsIgnoreWritesAndReadZero :
    (∀ off ∈ [0x004, 0x00C, 0x010, 0x1FC], off % 4 = 0 ∧ off ≤ 0x1FC ∧ off ≠ 0x000 ∧ off ≠ 0x008)
      ∧ ∀ off ∈ [0x000, 0x008, 0x010, 0x03C, 0x0C0, 0x0FC], off % 4 = 0 ∧ off ≤ 0x1FC
          ∧ (off = 0x000 ∨ off = 0x008 ∨ (0x010 ≤ off ∧ off ≤ 0x03C) ∨ (0x0C0 ≤ off ∧ off ≤ 0x0FC)) := by
  decide

theorem witness_ResetValues : 0x000 % 4 = 0 ∧ 0x1FC % 4 = 0 ∧ 0x1FC ≤ 0x1FC := by decide

theorem witness_EveryStepKeepsInv :
    State.Inv { active512 with requests := [cmd 0x3#32] }
      ∧ step { active512 with requests := [cmd 0x3#32] } = .next (finalDigest Config.params active512) :=
  ⟨inv_with_requests _ inv_active512, rfl⟩

theorem witness_LifecycleTransitions :
    performAccess (cmd 0x3#32) active512 = .next (finalDigest Config.params active512)
      ∧ performAccess (cmd 0x1#32) doneState = .next (initContext Config.params .v512 doneState)
      ∧ performAccess .reset doneState = .next State.reset
      ∧ performAccess (data 0x0#32) doneState = .next (raiseError .edata doneState) :=
  ⟨rfl, rfl, rfl, rfl⟩

theorem witness_OnlyInitWritesTheVariant :
    performAccess (cmd 0x3#32) active256 = .next (finalDigest Config.params active256)
      ∧ cmd 0x3#32 ≠ .reset ∧ cmd 0x3#32 ≠ .write .w32 0x000 0x00000001#32
      ∧ cmd 0x3#32 ≠ .write .w32 0x000 0x00000011#32 := ⟨rfl, by decide, by decide, by decide⟩

theorem witness_DigestIsKeptUntilInit :
    doneState.Inv ∧ doneState.lifecycle = .done
      ∧ performAccess (cmd 0x3#32) doneState = .next (raiseError .eseq doneState)
      ∧ cmd 0x3#32 ≠ .reset ∧ cmd 0x3#32 ≠ .write .w32 0x000 0x00000001#32
      ∧ cmd 0x3#32 ≠ .write .w32 0x000 0x00000011#32 :=
  ⟨inv_doneState, rfl, rfl, by decide, by decide, by decide⟩

theorem witness_PendingWaitsForItsPayload :
    (pending .update 2 [0x61#8]).pend = some ⟨.update, 2, [0x61#8]⟩
      ∧ (∃ t, performAccess (data 0x62#32) (pending .update 2 [0x61#8]) = .next t)
      ∧ (∃ t, performAccess (cmd 0x3#32) (pending .update 2 [0x61#8]) = .next t)
      ∧ data 0x62#32 ≠ .reset ∧ data 0x62#32 ≠ .write .w32 0x000 0x00000001#32
      ∧ data 0x62#32 ≠ .write .w32 0x000 0x00000011#32 :=
  ⟨rfl, ⟨_, rfl⟩, ⟨_, rfl⟩, by decide, by decide, by decide⟩

theorem witness_NoPartialDigestIsRead : active512.Inv ∧ active512.dvalid = false :=
  ⟨inv_active512, rfl⟩

end Sys2Proof.Machine.Tests
end

/-! ## Byte strings as integers: the byte order of R10 -/

namespace Sys2Proof.Machine

/-- R10 on a byte list of any length. -/
theorem natOfBytes_eq_sum (d : List Byte) :
    natOfBytes d = ((List.finRange d.length).map fun i => d[i].toNat * 256 ^ i.val).sum := by
  induction d with
  | nil => rfl
  | cons b d ih =>
    have shift : 256 * natOfBytes d
        = ((List.finRange d.length).map fun i => d[i].toNat * 256 ^ (i.val + 1)).sum := by
      rw [ih, ← List.sum_map_mul_left]
      simp only [Nat.pow_succ', Nat.mul_left_comm]
    rw [natOfBytes_cons, shift]
    simp [List.finRange_succ, Function.comp_def]

theorem natOfBytes_toList_eq_sum {n : Nat} (B : Vector Byte n) :
    natOfBytes B.toList = ((List.finRange n).map fun i => B[i].toNat * 256 ^ i.val).sum := by
  obtain ⟨⟨d⟩, rfl⟩ := B
  exact natOfBytes_eq_sum d

/-- Bit `k` of a byte list's integer is bit `k % 8` of byte `k / 8`. -/
theorem testBit_natOfBytes (d : List Byte) (k : Nat) :
    (natOfBytes d).testBit k = (d.getD (k / 8) 0x00#8).getLsbD (k % 8) := by
  induction d generalizing k with
  | nil => simp
  | cons b d ih =>
    have head_low : natOfBytes (b :: d) = 2 ^ 8 * natOfBytes d + b.toNat := by
      rw [natOfBytes_cons, Nat.add_comm]
      rfl
    rw [head_low, Nat.testBit_two_pow_mul_add _ b.isLt]
    split
    · rename_i hk
      rw [Nat.div_eq_of_lt hk, Nat.mod_eq_of_lt hk]
      rfl
    · rename_i hk
      obtain ⟨j, rfl⟩ : ∃ j, k = j + 8 := ⟨k - 8, by omega⟩
      simp [ih]

theorem toNat_int512 (B : Bytes64) : (int512 B).toNat = natOfBytes B.toList := by
  have fits := natOfBytes_lt B.toList
  rw [Vector.length_toList, show 256 = 2 ^ 8 from rfl, ← Nat.pow_mul] at fits
  rw [int512, BitVec.toNat_ofNat, show 512 = 8 * 64 from rfl, Nat.mod_eq_of_lt fits]

/-- Byte `i` stands in bits `8i+7 .. 8i` of `int512` (R10). -/
theorem getLsbD_int512 (B : Bytes64) (k : Nat) (hk : k < 512) :
    (int512 B).getLsbD k = B[k / 8].getLsbD (k % 8) := by
  have inside : k / 8 < B.toList.length := by simp; omega
  rw [BitVec.getLsbD, toNat_int512, testBit_natOfBytes, List.getD_eq_getElem _ _ inside,
    Vector.getElem_toList]

@[simp] theorem int512_bytes512 (x : BitVec 512) : int512 (bytes512 x) = x := by
  refine BitVec.eq_of_getLsbD_eq fun k hk => ?_
  have bit_of_byte : k % 8 < 8 := Nat.mod_lt _ (by decide)
  rw [getLsbD_int512 _ _ hk, getElem_bytes512, BitVec.getLsbD_extractLsb', Nat.div_add_mod]
  simp [bit_of_byte]

@[simp] theorem bytes512_int512 (B : Bytes64) : bytes512 (int512 B) = B := by
  refine Vector.ext fun i hi => BitVec.eq_of_getLsbD_eq fun k hk => ?_
  have byte_of_bit : (8 * i + k) / 8 = i := by omega
  have bit_of_bit : (8 * i + k) % 8 = k := by omega
  rw [getElem_bytes512, BitVec.getLsbD_extractLsb', getLsbD_int512 _ _ (by omega)]
  simp [hk, byte_of_bit, bit_of_bit]

/-- Settles O38: the sum is that of the byte list, and the inverses agree bit by bit. -/
theorem bytesAndIntegersAgree : Obligations.BytesAndIntegersAgree := by
  refine ⟨fun B => ?_, int512_bytes512, bytes512_int512⟩
  rw [toNat_int512, natOfBytes_toList_eq_sum]

end Sys2Proof.Machine

/-! ## An UPDATE and its payload: the path of R140 to R142 -/

namespace Sys2Proof.Machine

/-- With nothing pending in ACTIVE a command has its own effect (R98). -/
theorem whenAccepted_of_active (effect : State → State) {s : State} (hp : s.pend = none)
    (ha : s.lifecycle = .active) : whenAccepted effect s = effect s := by
  simp [whenAccepted, State.busy, hp, ha]

/-- An accepted UPDATE of a non-zero count becomes pending (R140). -/
theorem exec_update_of_pos {n : Nat} {s : State} (hp : s.pend = none) (ha : s.lifecycle = .active)
    (hn : n ≠ 0) :
    exec (.update n) s = .next { s with pend := some ⟨.update, n, []⟩ } := by
  rw [exec, execUpdate, whenAccepted_of_active _ hp ha, if_neg hn]

/-- An accepted UPDATE of no bytes is a no-op (R140). -/
theorem exec_update_zero {s : State} (hp : s.pend = none) (ha : s.lifecycle = .active) :
    exec (.update 0) s = .next s := by
  rw [exec, execUpdate, whenAccepted_of_active _ hp ha, if_pos rfl]

/-- A DATA word that is not the last of its payload joins the collected bytes (R141). -/
theorem exec_data_of_more {w : Word} {s : State} {p : Pending} (hp : s.pend = some p)
    (more : p.collected.length + 1 < p.count) :
    exec (.data w) s
      = .next { s with pend := some { p with collected := p.collected ++ [dataByte w] } } := by
  simp [exec, execData, dataPush, hp, more]

/-- The last DATA word of a payload completes the command (R141). -/
theorem exec_data_of_last {w : Word} {s : State} {p : Pending} (hp : s.pend = some p)
    (last : p.count ≤ p.collected.length + 1) :
    exec (.data w) s = .next
      (completePending Config.params p.op (p.collected ++ [dataByte w]) { s with pend := none }) := by
  simp [exec, execData, dataPush, hp, Nat.not_lt.mpr last]

@[simp] theorem execAll_nil (s : State) : execAll [] s = .next s := rfl

theorem execAll_cons_of_next {i : Instr} {is : List Instr} {s t : State} (h : exec i s = .next t) :
    execAll (i :: is) s = execAll is t := by
  simp [execAll, h]

/-- The DATA words of what a pending command still needs complete it with all its bytes, the collected
ones first (R141). -/
theorem execAll_data_completes (w : Word) (ws : List Word) {s : State} {p : Pending}
    (hp : s.pend = some p) (hcount : p.count = p.collected.length + (w :: ws).length) :
    execAll ((w :: ws).map .data) s = .next
      (completePending Config.params p.op (p.collected ++ (w :: ws).map dataByte)
        { s with pend := none }) := by
  induction ws generalizing w s p with
  | nil =>
    rw [List.map_singleton, execAll_cons_of_next (exec_data_of_last hp hcount.le), execAll_nil]
    rfl
  | cons w' ws ih =>
    simp only [List.length_cons] at hcount ih
    rw [List.map_cons, execAll_cons_of_next (exec_data_of_more hp (by omega)),
      ih w' rfl (by simp; omega)]
    simp

@[simp] theorem overwrite_nil (B : Bytes64) (start : Nat) : overwrite B start [] = B := by
  ext1 i hi
  rw [getElem_overwrite, if_neg (by simp)]

/-- Absorbing nothing changes nothing, with or without bytes in the partial buffer (R142). -/
@[simp] theorem absorb_nil (P : Params) (s : State) : absorb P [] s = s := by
  unfold absorb
  split
  · have not_full : s.plen.val ≠ 64 := s.plen.isLt.ne
    simp [not_full]
  · rfl

/-- Settles O32, by the empty chunk and by the DATA words of the others in order. -/
theorem updateWithItsPayloadAbsorbsIt : Obligations.UpdateWithItsPayloadAbsorbsIt := by
  intro chunk s _ ha hp
  cases chunk with
  | nil =>
    rw [List.map_nil, absorb_nil, updateInstrs, List.length_nil,
      execAll_cons_of_next (exec_update_zero hp ha)]
    rfl
  | cons w ws =>
    rw [updateInstrs, execAll_cons_of_next (exec_update_of_pos hp ha (by simp)),
      execAll_data_completes w ws rfl (by simp)]
    have nothing_pending : { s with pend := none } = s := by rw [← hp]
    simp [completePending, nothing_pending]

end Sys2Proof.Machine

/-! ## A command word is the word of its instruction (R93, R94, R98) -/

namespace Sys2Proof

/-- A field all of whose bits a mask covers is 0 in a word that the mask leaves nothing of (R93). -/
theorem toNat_field_eq_zero_of_mask {w rz : Word} (clear : w &&& rz = 0#32) (lo len : Nat)
    (covers : rz.extractLsb' lo len = BitVec.allOnes len) : w.toNat / 2 ^ lo % 2 ^ len = 0 := by
  have field_zero : w.extractLsb' lo len = 0#len := by
    rw [← BitVec.and_allOnes (x := w.extractLsb' lo len), ← covers, ← BitVec.extractLsb'_and, clear,
      BitVec.extractLsb'_zero]
  rw [← Nat.shiftRight_eq_div_pow, ← BitVec.extractLsb'_toNat, field_zero, BitVec.toNat_zero]

/-- What an accepted command word says of itself: one of the five opcodes, and its reserved bits 0
(R94, R98). -/
theorem decodeCommand_ok {w : Word} {i : Instr} (h : decodeCommand w = .ok i) :
    i = commandOf w ∧ ∃ rz, reservedZero (opField w) = some rz ∧ w &&& rz = 0#32 := by
  unfold decodeCommand at h
  split at h
  · cases h
  · rename_i rz hrz
    split at h
    · cases h
    · rename_i clear
      exact ⟨by injection h with h; exact h.symm, rz, hrz, not_not.mp clear⟩

theorem encode_init_of_fields {w : Word} (op : w.toNat % 16 = 1) (clear : w &&& 0xFFFFFFE0#32 = 0#32) :
    encode (.init (variantOfV (vField w))) = w := by
  have high := toNat_field_eq_zero_of_mask clear 5 27 (by decide)
  have small : w.toNat = 1 ∨ w.toNat = 17 := by have := w.isLt; omega
  rcases small with h | h
  · obtain rfl : w = 0x1#32 := BitVec.eq_of_toNat_eq h
    rfl
  · obtain rfl : w = 0x11#32 := BitVec.eq_of_toNat_eq h
    rfl

theorem encode_update_of_fields {w : Word} (op : w.toNat % 16 = 2) (clear : w &&& 0x000000F0#32 = 0#32) :
    encode (.update (count24Field w)) = w := by
  have middle := toNat_field_eq_zero_of_mask clear 4 4 (by decide)
  have bound := w.isLt
  apply BitVec.eq_of_toNat_eq
  rw [encode, count24Field_eq, toNat_countWord (by omega) (by decide)]
  omega

/-- A command word with no operand is its opcode (R91). -/
theorem opcode_eq_of_fields {w : Word} {c : Nat} (op : w.toNat % 16 = c)
    (clear : w &&& 0xFFFFFFF0#32 = 0#32) : BitVec.ofNat 32 c = w := by
  have high := toNat_field_eq_zero_of_mask clear 4 28 (by decide)
  have bound := w.isLt
  apply BitVec.eq_of_toNat_eq
  rw [BitVec.toNat_ofNat]
  omega

theorem encode_loadpart_of_fields {w : Word} (op : w.toNat % 16 = 4)
    (clear : w &&& 0xFFFFC0F0#32 = 0#32) : encode (.loadpart (count6Field w)) = w := by
  have middle := toNat_field_eq_zero_of_mask clear 4 4 (by decide)
  have high := toNat_field_eq_zero_of_mask clear 14 18 (by decide)
  have bound := w.isLt
  apply BitVec.eq_of_toNat_eq
  rw [encode, count6Field_eq, toNat_countWord (by omega) (by decide)]
  omega

/-- An accepted command word is the word of its instruction (R94, R100). -/
theorem encode_of_decodeCommand {w : Word} {i : Instr} (h : decodeCommand w = .ok i) :
    encode i = w := by
  obtain ⟨rfl, rz, hrz, clear⟩ := decodeCommand_ok h
  have opcode {c : BitVec 4} (hc : opField w = c) : w.toNat % 16 = c.toNat := by
    rw [← toNat_opField, hc]
  unfold reservedZero at hrz
  split_ifs at hrz with h1 h2 h3 h4 h5 <;> injection hrz with hrz <;> subst hrz <;> unfold commandOf
  · rw [if_pos h1]
    exact encode_init_of_fields (opcode h1) clear
  · rw [if_neg h1, if_pos h2]
    exact encode_update_of_fields (opcode h2) clear
  · rw [if_neg h1, if_neg h2, if_pos h3]
    exact opcode_eq_of_fields (opcode h3) clear
  · rw [if_neg h1, if_neg h2, if_neg h3, if_pos h4]
    exact encode_loadpart_of_fields (opcode h4) clear
  · rw [if_neg h1, if_neg h2, if_neg h3, if_neg h4]
    exact opcode_eq_of_fields (opcode h5) clear

/-- The fields a command word's counts are read from have the encoding's bounds (R91). -/
theorem wellFormed_of_decodeCommand {w : Word} {i : Instr} (h : decodeCommand w = .ok i) :
    i.WellFormed := by
  obtain ⟨rfl, -⟩ := decodeCommand_ok h
  have fits24 : count24Field w < count24Limit := (w.extractLsb' 8 24).isLt
  have fits6 : count6Field w < count6Limit := (w.extractLsb' 8 6).isLt
  unfold commandOf
  split_ifs
  · rfl
  · exact decide_eq_true fits24
  · rfl
  · exact decide_eq_true fits6
  · rfl

end Sys2Proof

/-! ## What an access can do, said once (R261) -/

namespace Sys2Proof.Machine

/-- Everything an access that answers can do: the access, what it takes, and the state it leaves
(R62 to R65, R71, R98, R250). -/
inductive AccessEffect (s : State) : Access → State → Prop
  /-- reset is asserted (R250) -/
  | reset : AccessEffect s .reset (blockReset s)
  /-- a register is read (R65) -/
  | read (width : AccessWidth) (off : Nat) : AccessEffect s (.read width off) (hostRead off s)
  /-- a write with no effect: a register that ignores it, or an UPDATE of no bytes (R63, R64, R140) -/
  | ignored (off : Nat) (v : Word) : AccessEffect s (.write .w32 off v) s
  /-- a rejected write (R222) -/
  | rejected (off : Nat) (v : Word) (e : ErrorCode) :
      AccessEffect s (.write .w32 off v) (raiseError e s)
  /-- INIT (R120) -/
  | init (v : Variant) : AccessEffect s (lineInstr (.init v)) (initContext Config.params v s)
  /-- CLRERR (R125) -/
  | clrerr : AccessEffect s (lineInstr .clrerr) { s with err := false, errcode := 0#4 }
  /-- an accepted UPDATE or LOADPART becomes pending (R140, R200) -/
  | started (v : Word) (p : Pending) (idle : s.pend = none) (active : s.lifecycle = .active)
      (valid : p.Valid) : AccessEffect s (.write .w32 0x000 v) { s with pend := some p }
  /-- an accepted LOADPART of no bytes (R200) -/
  | emptied (idle : s.pend = none) (active : s.lifecycle = .active) :
      AccessEffect s (lineInstr (.loadpart 0)) (loadPartial [] s)
  /-- an accepted FINAL (R170) -/
  | finalized (idle : s.pend = none) (active : s.lifecycle = .active) :
      AccessEffect s (lineInstr .final) (finalDigest Config.params s)
  /-- a payload byte that is not the last (R141) -/
  | collected (w : Word) (p : Pending) (busy : s.pend = some p)
      (more : p.collected.length + 1 < p.count) :
      AccessEffect s (lineInstr (.data w))
        { s with pend := some { p with collected := p.collected ++ [dataByte w] } }
  /-- the last payload byte (R141) -/
  | completed (w : Word) (p : Pending) (busy : s.pend = some p)
      (last : p.count ≤ p.collected.length + 1) :
      AccessEffect s (lineInstr (.data w))
        (completePending Config.params p.op (p.collected ++ [dataByte w]) { s with pend := none })

/-- The write of an instruction's word, as an effect of the instruction. -/
theorem accessEffect_of_exec {i : Instr} {s t : State} (wf : i.WellFormed) (h : exec i s = .next t) :
    AccessEffect s (lineInstr i) t := by
  rcases exec_cases h with ⟨v, rfl, rfl⟩ | ⟨rfl, rfl⟩ | ⟨e, rfl⟩ | ⟨idle, active, accepted⟩ |
    ⟨w, p, rfl, busy, ⟨more, rfl⟩ | ⟨last, rfl⟩⟩
  · exact .init v
  · exact .clrerr
  · exact .rejected _ _ e
  · rcases accepted with ⟨rfl, rfl⟩ | ⟨rfl, rfl⟩ | ⟨rfl, rfl⟩ |
      ⟨n, nonzero, op, ⟨rfl, rfl⟩ | ⟨rfl, rfl⟩, rfl⟩
    · exact .ignored _ _
    · exact .emptied idle active
    · exact .finalized idle active
    · exact .started _ _ idle active ⟨Nat.pos_of_ne_zero nonzero, of_decide_eq_true wf⟩
    · exact .started _ _ idle active ⟨Nat.pos_of_ne_zero nonzero, of_decide_eq_true wf⟩
  · exact .collected w p busy more
  · exact .completed w p busy last

/-- A write of a word that decodes at CMD is the write of its instruction. -/
theorem lineInstr_of_decodeCommand {v : Word} {i : Instr} (h : decodeCommand v = .ok i) :
    lineInstr i = .write .w32 0x000 v := by
  rw [lineInstr, instrAccess, decodeCommand_port h, encode_of_decodeCommand h]
  rfl

/-- Every access that answers has one of these effects. -/
theorem accessEffect_of_next {a : Access} {s t : State} (h : performAccess a s = .next t) :
    AccessEffect s a t := by
  cases a with
  | reset =>
    injection h with h
    exact h ▸ .reset
  | read width off =>
    obtain ⟨-, rfl⟩ := performAccess_read h
    exact .read width off
  | write width off v =>
    obtain ⟨defined, written⟩ := performAccess_write h
    obtain rfl : width = .w32 := by simp_all [definedAccess]
    rcases written with ⟨rfl, e, -, rfl⟩ | ⟨rfl, i, decoded, performed⟩ | ⟨rfl, performed⟩ |
      ⟨-, -, rfl⟩
    · exact .rejected _ v e
    · rw [← lineInstr_of_decodeCommand decoded]
      exact accessEffect_of_exec (wellFormed_of_decodeCommand decoded) performed
    · exact accessEffect_of_exec (i := .data v) rfl performed
    · exact .ignored off v

end Sys2Proof.Machine

/-! ## Absorption: its three cases, its counters and the zero tail (R142 to R145) -/

namespace Sys2Proof.Machine

section AbsorbCases
variable (P : Params) {d : List Byte} {s : State}

/-- From an empty partial buffer there is no top-up (R143). -/
theorem absorb_of_empty (empty : s.plen.val = 0) : absorb P d s = absorbAligned P d s := by
  simp [absorb, empty]

/-- A chunk that does not fill the partial buffer joins it (R143). -/
theorem absorb_of_fits (nonempty : 0 < s.plen.val) (fits : s.plen.val + d.length < 64) :
    absorb P d s = { s with
      buf := overwrite s.buf s.plen.val d
      plen := Fin.ofNat 64 (s.plen.val + d.length) } := by
  have taken : min (64 - s.plen.val) d.length = d.length := by omega
  simp [absorb, nonempty, taken, fits.ne]

/-- A chunk that fills the partial buffer completes a block, and the rest of it is absorbed from an
empty buffer (R143). -/
theorem absorb_of_fills (nonempty : 0 < s.plen.val) (fills : 64 ≤ s.plen.val + d.length) :
    absorb P d s = absorbAligned P (d.drop (64 - s.plen.val)) (emptyBuffer
      (compressBlock P (overwrite s.buf s.plen.val (d.take (64 - s.plen.val))) s)) := by
  have taken : min (64 - s.plen.val) d.length = 64 - s.plen.val := by omega
  have full : s.plen.val + (64 - s.plen.val) = 64 := by omega
  simp only [absorb, taken, full, if_true, if_pos nonempty, gt_iff_lt]

end AbsorbCases

section KeepRemainder
variable (r : List Byte) (s : State)

@[simp] theorem keepRemainder_nil : keepRemainder [] s = s := rfl

theorem keepRemainder_of_ne_nil {r : List Byte} (h : r ≠ []) :
    keepRemainder r s = loadPartial r s :=
  if_pos (List.length_pos_iff.mpr h)

@[simp] theorem keepRemainder_h : (keepRemainder r s).h = s.h := by
  cases r <;> rfl
@[simp] theorem keepRemainder_n : (keepRemainder r s).n = s.n := by
  cases r <;> rfl
@[simp] theorem keepRemainder_sigma : (keepRemainder r s).sigma = s.sigma := by
  cases r <;> rfl

/-- From an empty partial buffer phase 3 leaves the remainder in it (R145). -/
theorem keepRemainder_plen (empty : s.plen.val = 0) (short : r.length < 64) :
    (keepRemainder r s).plen.val = r.length := by
  cases r with
  | nil => exact empty
  | cons b r => exact Nat.mod_eq_of_lt short

theorem keepRemainder_buf (empty : s.buf = zeros64) : (keepRemainder r s).buf = padZeros r := by
  cases r with
  | nil => rw [keepRemainder_nil, empty, padZeros_nil]
  | cons b r => rfl

end KeepRemainder

theorem length_lastBytes (d : List Byte) : (lastBytes d).length = d.length % 64 := by
  rw [lastBytes, List.length_drop]
  omega

/-- Phase 3 keeps the bytes after the last whole block (R144, R145). -/
theorem absorbAligned_eq (P : Params) (d : List Byte) (s : State) :
    absorbAligned P d s = keepRemainder (lastBytes d) (absorbBlocks P (d.length / 64) d s) := rfl

section Counters
variable (P : Params) (d : List Byte) {s : State}

theorem absorbAligned_n :
    (absorbAligned P d s).n = s.n + BitVec.ofNat 512 (512 * (d.length / 64)) := by
  rw [absorbAligned_eq, keepRemainder_n, absorbBlocks_n]

theorem absorbAligned_plen (empty : s.plen.val = 0) :
    (absorbAligned P d s).plen.val = d.length % 64 := by
  obtain ⟨-, same_plen⟩ := absorbBlocks_buffer P (d.length / 64) d s
  have short : (lastBytes d).length < 64 := by rw [length_lastBytes]; omega
  rw [absorbAligned_eq, keepRemainder_plen _ _ (by rw [same_plen, empty]) short, length_lastBytes]

/-- Absorption adds 512 to the counter for each block it compresses (R146). -/
theorem absorb_n :
    (absorb P d s).n = s.n + BitVec.ofNat 512 (512 * ((s.plen.val + d.length) / 64)) := by
  rcases Nat.eq_zero_or_pos s.plen.val with empty | nonempty
  · rw [absorb_of_empty P empty, absorbAligned_n, empty, Nat.zero_add]
  · rcases Nat.lt_or_ge (s.plen.val + d.length) 64 with fits | fills
    · rw [absorb_of_fits P nonempty fits, Nat.div_eq_of_lt fits]
      simp
    · have blocks : 512 * ((s.plen.val + d.length) / 64)
          = 512 + 512 * ((d.length - (64 - s.plen.val)) / 64) := by omega
      rw [absorb_of_fills P nonempty fills, absorbAligned_n, emptyBuffer_n, compressBlock_n,
        List.length_drop, BitVec.add_assoc, blocks, BitVec.ofNat_add]

/-- Absorption leaves the bytes after the last whole block in the partial buffer (R145). -/
theorem absorb_plen : (absorb P d s).plen.val = (s.plen.val + d.length) % 64 := by
  rcases Nat.eq_zero_or_pos s.plen.val with empty | nonempty
  · rw [absorb_of_empty P empty, absorbAligned_plen P d empty, empty, Nat.zero_add]
  · rcases Nat.lt_or_ge (s.plen.val + d.length) 64 with fits | fills
    · rw [absorb_of_fits P nonempty fits]
      rfl
    · rw [absorb_of_fills P nonempty fills, absorbAligned_plen P _ rfl, List.length_drop]
      omega

/-- Every absorbed byte adds 8 to LEN (R27, R147). -/
theorem absorb_len : (absorb P d s).len = s.len + BitVec.ofNat 512 (8 * d.length) := by
  have bits : 512 * ((s.plen.val + d.length) / 64) + 8 * ((s.plen.val + d.length) % 64)
      = 8 * s.plen.val + 8 * d.length := by omega
  rw [State.len, State.len, absorb_n, absorb_plen, BitVec.add_assoc, BitVec.add_assoc,
    ← BitVec.ofNat_add, ← BitVec.ofNat_add, bits]

end Counters

/-! ### The zero tail (R29, R36 item 1) -/

theorem zeroTail_of_empty {s : State} (h : s.buf = zeros64) : s.ZeroTail := by
  intro i _
  rw [h]
  exact getElem_zeros64 i.val i.isLt

theorem zeroTail_loadPartial {d : List Byte} (short : d.length < 64) (s : State) :
    (loadPartial d s).ZeroTail := by
  intro i beyond
  have past_end : d.length ≤ i.val := by
    have plen : (loadPartial d s).plen.val = d.length := Nat.mod_eq_of_lt short
    exact plen ▸ beyond
  show (padZeros d)[i.val] = 0x00#8
  rw [getElem_padZeros, List.getD_eq_default _ _ past_end]

theorem zeroTail_absorbAligned (P : Params) (d : List Byte) {s : State} (h : s.ZeroTail) :
    (absorbAligned P d s).ZeroTail := by
  rw [absorbAligned_eq]
  by_cases none_left : lastBytes d = []
  · obtain ⟨same_buf, same_plen⟩ := absorbBlocks_buffer P (d.length / 64) d s
    rw [none_left, keepRemainder_nil, State.ZeroTail, same_buf, same_plen]
    exact h
  · rw [keepRemainder_of_ne_nil _ none_left]
    exact zeroTail_loadPartial (by rw [length_lastBytes]; omega) _

theorem zeroTail_absorb (P : Params) (d : List Byte) {s : State} (h : s.ZeroTail) :
    (absorb P d s).ZeroTail := by
  rcases Nat.eq_zero_or_pos s.plen.val with empty | nonempty
  · rw [absorb_of_empty P empty]
    exact zeroTail_absorbAligned P d h
  · rcases Nat.lt_or_ge (s.plen.val + d.length) 64 with fits | fills
    · intro i beyond
      rw [Fin.le_def, absorb_plen, Nat.mod_eq_of_lt fits] at beyond
      rw [absorb_of_fits P nonempty fits]
      show (overwrite s.buf s.plen.val d)[i.val] = 0x00#8
      rw [getElem_overwrite, if_neg (by omega)]
      exact h i (by omega)
    · rw [absorb_of_fills P nonempty fills]
      exact zeroTail_absorbAligned P _ (zeroTail_of_empty rfl)

/-- The last payload byte of a command whose count fits its field leaves a zero tail (R29, R141). -/
theorem zeroTail_completePending {p : Pending} {d : List Byte} (P : Params) (valid : p.Valid)
    (full : d.length ≤ p.count) {s : State} (h : s.ZeroTail) :
    (completePending P p.op d s).ZeroTail := by
  obtain ⟨op, count, collected⟩ := p
  cases op with
  | update => exact zeroTail_absorb P d h
  | loadpart =>
    obtain ⟨-, fits⟩ := valid
    exact zeroTail_loadPartial (full.trans_lt fits) s

/-- Multiples of `2 ^ k` are closed under addition modulo `2 ^ w`. -/
theorem multiple_add_multiple {w k : Nat} (hk : k ≤ w) {x : BitVec w} (hx : x.toNat % 2 ^ k = 0)
    (m : Nat) : (x + BitVec.ofNat w (2 ^ k * m)).toNat % 2 ^ k = 0 := by
  have divides : 2 ^ k ∣ 2 ^ w := Nat.pow_dvd_pow 2 hk
  rw [BitVec.toNat_add, BitVec.toNat_ofNat, Nat.mod_mod_of_dvd _ divides, Nat.add_mod, hx,
    Nat.mod_mod_of_dvd _ divides, Nat.mul_mod_right, Nat.add_zero, Nat.zero_mod]

/-- The counter stays a multiple of 512 (R36 item 3). -/
theorem counter_completePending (P : Params) (op : PendOp) (d : List Byte) {s : State}
    (h : s.n.toNat % 512 = 0) : (completePending P op d s).n.toNat % 512 = 0 := by
  cases op with
  | update =>
    rw [completePending, absorb_n]
    exact multiple_add_multiple (k := 9) (by decide) h _
  | loadpart => exact h

end Sys2Proof.Machine

/-! ## The invariants at reset and across every step (R36) -/

namespace Sys2Proof.Machine

namespace SameButAbsorbed
variable {s t : State} (h : SameButAbsorbed s t)
include h

theorem lifecycle_eq : t.lifecycle = s.lifecycle := (congrArg State.lifecycle h :)
theorem var_eq : t.var = s.var := (congrArg State.var h :)
theorem dig_eq : t.dig = s.dig := (congrArg State.dig h :)
theorem err_eq : t.err = s.err := (congrArg State.err h :)
theorem errcode_eq : t.errcode = s.errcode := (congrArg State.errcode h :)
theorem pend_eq : t.pend = s.pend := (congrArg State.pend h :)

end SameButAbsorbed

/-- Settles O48, clause by clause from the reset values of R37. -/
theorem invHoldsAtReset : Obligations.InvHoldsAtReset where
  zero_tail := zeroTail_of_empty rfl
  idle_cleared _ := ⟨rfl, rfl, rfl, rfl, rfl, rfl, rfl, rfl⟩
  active_counter active := nomatch active
  done_empty done := nomatch done
  not_done_blank _ := ⟨rfl, rfl⟩
  done_window done := nomatch done
  pending_active _ busy := nomatch busy
  errcode_cleared _ := rfl
  errcode_produced raised := nomatch raised

/-- The error report's part of the invariants (R36 item 6, R221). -/
def State.ReportCoded (s : State) : Prop :=
  (s.err = false → s.errcode = 0#4) ∧ (s.err = true → 1 ≤ s.errcode.toNat ∧ s.errcode.toNat ≤ 5)

theorem State.Inv.reportCoded {s : State} (h : s.Inv) : s.ReportCoded :=
  ⟨h.errcode_cleared, h.errcode_produced⟩

/-- The numbers of R221. -/
theorem errorNumber_range (e : ErrorCode) : 1 ≤ (errorNumber e).toNat ∧ (errorNumber e).toNat ≤ 5 := by
  cases e <;> decide

theorem reportCoded_raiseError (e : ErrorCode) {s : State} (h : s.ReportCoded) :
    (raiseError e s).ReportCoded := by
  obtain ⟨-, produced⟩ := h
  refine ⟨fun cleared => by simp at cleared, fun _ => ?_⟩
  rw [raiseError_errcode]
  split
  · exact errorNumber_range e
  · rename_i already
    exact produced (eq_true_of_ne_false already)

/-- The invariants say nothing of the host's side of the bus. -/
theorem State.Inv.of_sameBlock {s t : State} (h : s.Inv) (same : SameBlock s t) : t.Inv := by
  rw [same]
  exact { h with }

/-- The invariants meet the error report in their last two clauses alone. -/
theorem State.Inv.of_sameContext {s t : State} (h : s.Inv) (same : SameContext s t)
    (report : t.ReportCoded) : t.Inv :=
  of_sameBlock (s := { s with err := t.err, errcode := t.errcode })
    { h with
      errcode_cleared := report.1
      errcode_produced := report.2 } same

theorem sameContext_raiseError (e : ErrorCode) (s : State) : SameContext s (raiseError e s) := by
  rw [raiseError_eq]
  rfl

/-- What the invariants ask of an ACTIVE state (R36). -/
theorem inv_of_active {s : State} (active : s.lifecycle = .active) (tail : s.ZeroTail)
    (counter : s.n.toNat % 512 = 0) (blank : s.dig = zeros64)
    (valid : ∀ p, s.pend = some p → p.Valid) (report : s.ReportCoded) : s.Inv where
  zero_tail := tail
  idle_cleared idle := nomatch active.symm.trans idle
  active_counter _ := counter
  done_empty done := nomatch active.symm.trans done
  not_done_blank _ := ⟨blank, by simp [State.dvalid, active]⟩
  done_window done := nomatch active.symm.trans done
  pending_active p busy := ⟨active, valid p busy⟩
  errcode_cleared := report.1
  errcode_produced := report.2

/-- In an ACTIVE state the digest is blank (R36 item 4). -/
theorem State.Inv.blank_of_active {s : State} (h : s.Inv) (active : s.lifecycle = .active) :
    s.dig = zeros64 :=
  (h.not_done_blank (by rw [active]; decide)).1

/-- A pending command may be replaced by any other that fits its field, or ended. -/
theorem State.Inv.withPend {s : State} (h : s.Inv) (active : s.lifecycle = .active)
    {pend : Option Pending} (valid : ∀ p, pend = some p → p.Valid) :
    State.Inv { s with pend := pend } :=
  inv_of_active (s := { s with pend := pend }) active h.zero_tail (h.active_counter active)
    (h.blank_of_active active) valid h.reportCoded

/-- What absorption writes may change as long as the tail is zero and the counter whole blocks. -/
theorem State.Inv.of_sameButAbsorbed {s t : State} (h : s.Inv) (active : s.lifecycle = .active)
    (frame : SameButAbsorbed s t) (tail : t.ZeroTail) (counter : t.n.toNat % 512 = 0) : t.Inv :=
  inv_of_active (frame.lifecycle_eq.trans active) tail counter
    (frame.dig_eq.trans (h.blank_of_active active))
    (fun p busy => (h.pending_active p (frame.pend_eq ▸ busy)).2)
    (by
      rw [State.ReportCoded, frame.err_eq, frame.errcode_eq]
      exact h.reportCoded)

theorem inv_initContext (P : Params) (v : Variant) {s : State} (report : s.ReportCoded) :
    (initContext P v s).Inv :=
  inv_of_active rfl (zeroTail_of_empty rfl) (by rw [initContext_n, BitVec.toNat_zero]) rfl
    (fun _ busy => nomatch busy) report

theorem inv_finalDigest (P : Params) {s : State} (idle : s.pend = none) (report : s.ReportCoded) :
    (finalDigest P s).Inv where
  zero_tail := zeroTail_of_empty rfl
  idle_cleared isIdle := nomatch isIdle
  active_counter active := nomatch active
  done_empty _ := ⟨rfl, rfl, rfl⟩
  not_done_blank notDone := absurd rfl notDone
  done_window _ := rfl
  pending_active _ busy := nomatch idle.symm.trans busy
  errcode_cleared := report.1
  errcode_produced := report.2

theorem Pending.Valid.collect {p : Pending} (h : p.Valid) (b : Byte)
    (more : p.collected.length + 1 < p.count) :
    Pending.Valid { p with collected := p.collected ++ [b] } :=
  ⟨by simpa using more, h.2⟩

theorem inv_completePending (P : Params) {s : State} {p : Pending} (h : s.Inv)
    (busy : s.pend = some p) (b : Byte) :
    (completePending P p.op (p.collected ++ [b]) { s with pend := none }).Inv := by
  obtain ⟨active, valid⟩ := h.pending_active p busy
  have ended : State.Inv { s with pend := none } := h.withPend active (fun _ busy => nomatch busy)
  have short : (p.collected ++ [b]).length ≤ p.count := by simpa using valid.1
  exact ended.of_sameButAbsorbed active (completePending_frame P _ _ _)
    (zeroTail_completePending P valid short ended.zero_tail)
    (counter_completePending P _ _ (ended.active_counter active))

/-- Every access keeps the invariants (R36). -/
theorem AccessEffect.keeps_inv {a : Access} {s t : State} (effect : AccessEffect s a t) (h : s.Inv) :
    t.Inv := by
  cases effect with
  | reset => exact State.Inv.of_sameBlock invHoldsAtReset rfl
  | read => exact h.of_sameBlock rfl
  | ignored => exact h
  | rejected off v e =>
    exact h.of_sameContext (sameContext_raiseError e s) (reportCoded_raiseError e h.reportCoded)
  | init v => exact inv_initContext _ v h.reportCoded
  | clrerr => exact h.of_sameContext rfl ⟨fun _ => rfl, fun raised => nomatch raised⟩
  | started _ p _ active valid =>
    exact h.withPend active (by rintro _ ⟨⟩; exact valid)
  | emptied _ active =>
    exact h.of_sameButAbsorbed active rfl (zeroTail_loadPartial (by decide) s)
      (h.active_counter active)
  | finalized idle => exact inv_finalDigest _ idle h.reportCoded
  | collected w p busy more =>
    obtain ⟨active, valid⟩ := h.pending_active p busy
    exact h.withPend active (by rintro _ ⟨⟩; exact valid.collect _ more)
  | completed w p busy => exact inv_completePending _ h busy _

/-- Settles O49: a step is an access, and every access keeps the invariants. -/
theorem everyStepKeepsInv : Obligations.EveryStepKeepsInv := by
  intro s t h stepped
  obtain ⟨a, rest, -, performed⟩ := step_next stepped
  exact (accessEffect_of_next performed).keeps_inv (h.of_sameBlock rfl)

end Sys2Proof.Machine

/-! ## What the last byte of an UPDATE leaves (R35, R142, R147) -/

namespace Sys2Proof.Machine

/-- Settles O24, by the frame of absorption. -/
theorem updateCompletionFrame : Obligations.UpdateCompletionFrame := by
  intro w s count col busy last
  exact ⟨_, exec_data_of_last busy last, completePending_frame Config.params .update _ _⟩

/-- Settles O29: the completed UPDATE absorbs all its collected bytes, each of which adds 8 to LEN. -/
theorem updateAddsItsBitsToLen : Obligations.UpdateAddsItsBitsToLen := by
  intro w s n col busy last
  refine ⟨_, exec_data_of_last busy last.le, ?_⟩
  have all_collected : n = (col ++ [dataByte w]).length := by simpa using last
  rw [all_collected]
  exact absorb_len Config.params _

end Sys2Proof.Machine

/-! ## Which accesses change the lifecycle, the variant, the digest and a pending command -/

namespace Sys2Proof.Machine

/-- The two words of INIT (R91, R100). -/
theorem lineInstr_init (v : Variant) :
    lineInstr (.init v) = .write .w32 0x000 0x00000001#32
      ∨ lineInstr (.init v) = .write .w32 0x000 0x00000011#32 := by
  cases v
  · exact .inl rfl
  · exact .inr rfl

/-- Settles O50: of the effects of an access only reset, INIT and FINAL write STATE. -/
theorem lifecycleTransitions : Obligations.LifecycleTransitions := by
  intro a s t performed
  cases accessEffect_of_next performed with
  | reset => exact .inl ⟨rfl, rfl⟩
  | init v => exact .inr (.inl ⟨lineInstr_init v, rfl⟩)
  | finalized _ active => exact .inr (.inr (.inl ⟨rfl, active, rfl⟩))
  | rejected _ _ e => exact .inr (.inr (.inr (raiseError_lifecycle e s)))
  | completed => exact .inr (.inr (.inr (completePending_frame _ _ _ _).lifecycle_eq))
  | read | ignored | clrerr | started | emptied | collected => exact .inr (.inr (.inr rfl))

/-- Every access but INIT and reset leaves VAR (R24, R123). -/
theorem AccessEffect.var_eq {a : Access} {s t : State} (effect : AccessEffect s a t)
    (noReset : a ≠ .reset) (noInit : ∀ v, a ≠ lineInstr (.init v)) : t.var = s.var := by
  cases effect with
  | reset => exact absurd rfl noReset
  | init v => exact absurd rfl (noInit v)
  | rejected _ _ e => exact raiseError_var e s
  | completed => exact (completePending_frame _ _ _ _).var_eq
  | read | ignored | clrerr | started | emptied | finalized | collected => rfl

/-- An access that is neither INIT word is no INIT. -/
theorem not_lineInstr_init {a : Access} (no512 : a ≠ .write .w32 0x000 0x00000001#32)
    (no256 : a ≠ .write .w32 0x000 0x00000011#32) (v : Variant) : a ≠ lineInstr (.init v) := by
  rintro rfl
  exact (lineInstr_init v).elim no512 no256

/-- Settles O51, and the constants differ by what R8 asks of the parameters. -/
theorem onlyInitWritesTheVariant : Obligations.OnlyInitWritesTheVariant := by
  refine ⟨fun a s t performed noReset no512 no256 => ?_, Params.iv_ne⟩
  exact (accessEffect_of_next performed).var_eq noReset (not_lineInstr_init no512 no256)

/-- Every access but INIT and reset leaves all but the error report of a state that is not ACTIVE and has
nothing pending (R174). -/
theorem AccessEffect.sameContext_of_not_active {a : Access} {s t : State} (effect : AccessEffect s a t)
    (idle : s.pend = none) (notActive : s.lifecycle ≠ .active) (noReset : a ≠ .reset)
    (noInit : ∀ v, a ≠ lineInstr (.init v)) : SameContext s t := by
  cases effect with
  | reset => exact absurd rfl noReset
  | init v => exact absurd rfl (noInit v)
  | rejected _ _ e => exact sameContext_raiseError e s
  | read | ignored | clrerr => rfl
  | started _ _ _ active | emptied _ active | finalized _ active => exact absurd active notActive
  | collected _ _ busy | completed _ _ busy => exact nomatch idle.symm.trans busy

/-- Nothing is pending in DONE (R36 item 5). -/
theorem State.Inv.idle_of_done {s : State} (h : s.Inv) (done : s.lifecycle = .done) :
    s.pend = none := by
  refine Option.eq_none_iff_forall_ne_some.mpr fun p busy => ?_
  exact nomatch done.symm.trans (h.pending_active p busy).1

/-- Settles O52: in DONE no command is accepted and nothing is pending. -/
theorem digestIsKeptUntilInit : Obligations.DigestIsKeptUntilInit := by
  intro a s t h done performed noReset no512 no256
  exact (accessEffect_of_next performed).sameContext_of_not_active (h.idle_of_done done)
    (by rw [done]; decide) noReset (not_lineInstr_init no512 no256)

/-- Settles O53: no command is accepted while one is pending, and DATA collects or completes. -/
theorem pendingWaitsForItsPayload : Obligations.PendingWaitsForItsPayload := by
  intro a s t p pending performed noReset no512 no256
  have same {q : Pending} (busy : s.pend = some q) : q = p :=
    Option.some.inj (busy.symm.trans pending)
  cases accessEffect_of_next performed with
  | reset => exact absurd rfl noReset
  | init v => exact absurd rfl (not_lineInstr_init no512 no256 v)
  | rejected _ _ e => exact .inl ((raiseError_pend e s).trans pending)
  | read | ignored | clrerr => exact .inl pending
  | started _ _ idle | emptied idle | finalized idle => exact nomatch idle.symm.trans pending
  | collected w q busy more =>
    obtain rfl := same busy
    exact .inr ⟨w, rfl, .inl ⟨more, by rw [dataByte_eq]⟩⟩
  | completed w q busy last =>
    obtain rfl := same busy
    exact .inr ⟨w, rfl, .inr ⟨last, (completePending_frame _ _ _ _).pend_eq⟩⟩

end Sys2Proof.Machine

/-! ## The chain over a message's whole blocks (R144, R146, R151) -/

namespace Sys2Proof.Machine

/-- The first `count` blocks of a byte list, in order; `wholeBlocks` is the case of as many as there are. -/
def frontBlocks (count : Nat) (d : List Byte) : List Bytes64 :=
  (List.range count).map fun k => padZeros ((d.drop (64 * k)).take 64)

theorem wholeBlocks_eq (d : List Byte) : wholeBlocks d = frontBlocks (d.length / 64) d := rfl

@[simp] theorem frontBlocks_zero (d : List Byte) : frontBlocks 0 d = [] := rfl

/-- The blocks are taken one after the other from the front, as phase 2 takes them (R144). -/
theorem frontBlocks_succ (count : Nat) (d : List Byte) :
    frontBlocks (count + 1) d = padZeros (d.take 64) :: frontBlocks count (d.drop 64) := by
  simp [frontBlocks, List.range_succ_eq_map, Function.comp_def, Nat.mul_add, Nat.add_comm]

/-- Phase 2 chains its blocks, each keyed by the counter's value before it (R146). -/
theorem absorbBlocks_h (P : Params) (count k : Nat) (d : List Byte) (s : State)
    (counter : s.n = BitVec.ofNat 512 (512 * k)) :
    (absorbBlocks P count d s).h = ((frontBlocks count d).zipIdx k).foldl
      (fun h mk => P.G h (bytes512 (BitVec.ofNat 512 (512 * mk.2))) mk.1) s.h := by
  induction count generalizing d s k with
  | zero => rfl
  | succ count ih =>
    have next_counter : (compressBlock P (padZeros (d.take 64)) s).n
        = BitVec.ofNat 512 (512 * (k + 1)) := by
      rw [compressBlock_n, counter, Nat.mul_succ, BitVec.ofNat_add]
    rw [absorbBlocks, ih (k + 1) _ _ next_counter, frontBlocks_succ, List.zipIdx_cons,
      List.foldl_cons, compressBlock_h, counter]

/-- Phase 2 adds its blocks to the checksum (R28, R146). -/
theorem absorbBlocks_sigma (P : Params) (count : Nat) (d : List Byte) (s : State) :
    (absorbBlocks P count d s).sigma = s.sigma + blockSum (frontBlocks count d) := by
  induction count generalizing d s with
  | zero => simp [absorbBlocks, blockSum]
  | succ count ih =>
    rw [absorbBlocks, ih, frontBlocks_succ, compressBlock_sigma, BitVec.add_assoc]
    rfl

/-- Settles O31: from the empty buffer INIT leaves there is no top-up, phase 2 runs over the whole
blocks from counter 0, and phase 3 keeps the rest. -/
theorem blocksAreKeyedByPosition : Obligations.BlocksAreKeyedByPosition := by
  intro P v d s
  have aligned : absorb P d (initContext P v s) = absorbAligned P d (initContext P v s) :=
    absorb_of_empty P rfl
  obtain ⟨same_buf, -⟩ := absorbBlocks_buffer P (d.length / 64) d (initContext P v s)
  refine ⟨?_, ?_, ?_, ?_, ?_⟩
  · rw [aligned, absorbAligned_eq, keepRemainder_h, absorbBlocks_h P _ 0 d _ rfl]
    rfl
  · rw [aligned, absorbAligned_eq, keepRemainder_sigma, absorbBlocks_sigma, initContext_sigma,
      BitVec.zero_add, wholeBlocks_eq]
  · rw [aligned, absorbAligned_n, initContext_n, BitVec.zero_add]
  · rw [aligned, absorbAligned_eq, keepRemainder_buf _ _ same_buf]
  · rw [aligned, absorbAligned_plen P d rfl]

end Sys2Proof.Machine

/-! ## What a register reads (R33, R34, R61, R67, R78) -/

namespace Sys2Proof.Machine

/-- A read of a named register's offset reads that register (R61, R78). -/
theorem regAt_regOffset {r : Reg} (named : r ≠ .reserved) : regAt (regOffset r) = r := by
  cases r with
  | reserved => exact absurd rfl named
  | cmd | status | data | remain => rfl
  | len j | dig j | h j | n j | sigma j | buf j => revert j; decide

theorem regRead_regOffset (s : State) {r : Reg} (named : r ≠ .reserved) :
    regRead s (regOffset r) = readReg s (Config.freeWord s.draws) r := by
  rw [regRead, regAt_regOffset named]

section WindowReads
variable (s : State) (j : Fin 16)

theorem regRead_len : regRead s (0x040 + 4 * j.val)
    = orDraw s (Config.freeWord s.draws) (wordAt (bytes512 s.len) j) :=
  regRead_regOffset s (r := .len j) (by simp)

theorem regRead_dig : regRead s (0x080 + 4 * j.val) = wordAt s.dig j :=
  regRead_regOffset s (r := .dig j) (by simp)

theorem regRead_h : regRead s (0x100 + 4 * j.val)
    = orDraw s (Config.freeWord s.draws) (wordAt s.h j) :=
  regRead_regOffset s (r := .h j) (by simp)

theorem regRead_n : regRead s (0x140 + 4 * j.val)
    = orDraw s (Config.freeWord s.draws) (wordAt (bytes512 s.n) j) :=
  regRead_regOffset s (r := .n j) (by simp)

theorem regRead_sigma : regRead s (0x180 + 4 * j.val)
    = orDraw s (Config.freeWord s.draws) (wordAt (bytes512 s.sigma) j) :=
  regRead_regOffset s (r := .sigma j) (by simp)

theorem regRead_buf : regRead s (0x1C0 + 4 * j.val)
    = orDraw s (Config.freeWord s.draws) (wordAt s.buf j) :=
  regRead_regOffset s (r := .buf j) (by simp)

end WindowReads

theorem regRead_status (s : State) :
    regRead s 0x004 = statusWord (plenField s (Config.freeWord s.draws)) s := rfl

theorem regRead_remain (s : State) :
    regRead s 0x00C = (BitVec.ofNat 24 s.remain).setWidth 32 := rfl

/-! ### Draws (R70) -/

theorem busy_of_pending {s : State} {p : Pending} (h : s.pend = some p) : s.busy = true := by
  rw [State.busy, h, Option.isSome_some]

theorem busy_of_idle {s : State} (h : s.pend = none) : s.busy = false := by
  rw [State.busy, h, Option.isSome_none]

theorem orDraw_of_busy {s : State} (h : s.busy = true) (draw value : Word) :
    orDraw s draw value = draw := if_pos h

theorem orDraw_of_not_busy {s : State} (h : s.busy = false) (draw value : Word) :
    orDraw s draw value = value := if_neg (Bool.eq_false_iff.mp h)

/-! ### Words of a 64-byte value (R67) -/

/-- Byte `i` of a word holds bits `8i+7 .. 8i` and no other (R67). -/
theorem getLsbD_placedByte (b : Byte) (i k : Nat) (hk : k < 32) :
    (b.setWidth 32 <<< (8 * i)).getLsbD k = (decide (k / 8 = i) && b.getLsbD (k % 8)) := by
  rw [BitVec.getLsbD_shiftLeft, BitVec.getLsbD_setWidth]
  rcases Nat.lt_trichotomy (k / 8) i with below | rfl | above
  · have before : k < 8 * i := by omega
    simp [before, below.ne]
  · have at_or_after : ¬ k < 8 * (k / 8) := by omega
    have bit : k - 8 * (k / 8) = k % 8 := by omega
    have in_word : k % 8 < 32 := by omega
    simp [hk, at_or_after, bit, in_word]
  · have after : 8 ≤ k - 8 * i := by omega
    simp [BitVec.getLsbD_of_ge b _ after, above.ne']

/-- Bit `k` of word `j` is bit `k % 8` of byte `4 * j + k / 8`. -/
theorem getLsbD_wordAt (B : Bytes64) (j : Fin 16) (k : Nat) (hk : k < 32) :
    (wordAt B j).getLsbD k = (B[4 * j.val + k / 8]).getLsbD (k % 8) := by
  have placed : wordAt B j = B[4 * j.val].setWidth 32 <<< (8 * 0)
      ||| B[4 * j.val + 1].setWidth 32 <<< (8 * 1)
      ||| B[4 * j.val + 2].setWidth 32 <<< (8 * 2)
      ||| B[4 * j.val + 3].setWidth 32 <<< (8 * 3) := by
    simp [wordAt]
  have byte : k / 8 = 0 ∨ k / 8 = 1 ∨ k / 8 = 2 ∨ k / 8 = 3 := by omega
  rw [placed]
  simp only [BitVec.getLsbD_or, getLsbD_placedByte _ _ _ hk]
  rcases byte with h | h | h | h <;> simp [h]

/-- Word `j` of `bytes512 x` holds bits `32j+31 .. 32j` of `x` (R67). -/
theorem wordAt_bytes512 (x : BitVec 512) (j : Fin 16) :
    wordAt (bytes512 x) j = x.extractLsb' (32 * j.val) 32 := by
  refine BitVec.eq_of_getLsbD_eq fun k hk => ?_
  have bit_of_byte : k % 8 < 8 := Nat.mod_lt _ (by decide)
  have position : 8 * (4 * j.val + k / 8) + k % 8 = 32 * j.val + k := by omega
  rw [getLsbD_wordAt _ _ _ hk, getElem_bytes512, BitVec.getLsbD_extractLsb', BitVec.getLsbD_extractLsb',
    position]
  simp [hk, bit_of_byte]

@[simp] theorem wordAt_zeros64 (j : Fin 16) : wordAt zeros64 j = 0#32 := by
  simp [wordAt]

/-! ### Fields of STATUS (R33) -/

/-- A field of STATUS stands at its bits. -/
theorem extractLsb'_statusField_same {k : Nat} (field : BitVec k) (lo : Nat) (fits : lo + k ≤ 32) :
    (statusField field lo).extractLsb' lo k = field := by
  refine BitVec.eq_of_getLsbD_eq fun i hi => ?_
  have inside : lo + i < 32 := by omega
  rw [BitVec.getLsbD_extractLsb', getLsbD_statusField]
  simp [hi, inside]

/-- A field of STATUS is 0 outside its bits. -/
theorem extractLsb'_statusField_other {k : Nat} (field : BitVec k) (lo start len : Nat)
    (apart : start + len ≤ lo ∨ lo + k ≤ start) :
    (statusField field lo).extractLsb' start len = 0#len := by
  refine BitVec.eq_of_getLsbD_eq fun i hi => ?_
  rw [BitVec.getLsbD_extractLsb', getLsbD_statusField]
  rcases apart with below | above
  · have before : start + i < lo := by omega
    simp [before]
  · have after : k ≤ start + i - lo := by omega
    simp [BitVec.getLsbD_of_ge _ _ after]

/-- The PLEN field of STATUS (R33). -/
theorem statusWord_plenField (field : BitVec 6) (s : State) :
    (statusWord field s).extractLsb' 16 6 = field := by
  simp (disch := decide) [statusWord, BitVec.extractLsb'_or, extractLsb'_statusField_same,
    extractLsb'_statusField_other]

theorem ofBool_busy (s : State) : BitVec.ofBool s.busy = if s.pend = none then 0#1 else 1#1 := by
  rw [State.busy]
  cases s.pend <;> rfl

theorem ofBool_dvalid (s : State) :
    BitVec.ofBool s.dvalid = if s.lifecycle = .done then 1#1 else 0#1 := by
  rw [State.dvalid]
  cases s.lifecycle <;> rfl

theorem ofBool_eq_ite (b : Bool) : BitVec.ofBool b = if b = true then 1#1 else 0#1 := by
  cases b <;> rfl

/-- Every other field of a STATUS word, and its reserved bits (R33). -/
theorem statusWord_fieldsButPlen (field : BitVec 6) (s : State) :
    StatusFieldsButPlen (statusWord field s) s := by
  unfold StatusFieldsButPlen
  simp (disch := decide) only [statusWord, BitVec.extractLsb'_or, extractLsb'_statusField_same,
    extractLsb'_statusField_other, BitVec.or_zero, BitVec.zero_or, and_true, true_and]
  refine ⟨ofBool_busy s, ?_, ?_, ofBool_dvalid s, ofBool_eq_ite s.err, ?_⟩
  · cases s.lifecycle <;> rfl
  · cases s.var <;> rfl
  · rw [State.pendop]
    rcases s.pend with _ | p
    · rfl
    · cases p.op <;> rfl

/-! ### The reads of the obligations -/

/-- Settles O41, field by field. -/
theorem statusReadsItsFields : Obligations.StatusReadsItsFields := by
  intro s
  refine ⟨statusWord_fieldsButPlen _ s, fun idle => ?_⟩
  rw [regRead_status, statusWord_plenField, plenField, busy_of_idle idle, if_neg Bool.false_ne_true,
    BitVec.toNat_ofNat]
  exact Nat.mod_eq_of_lt s.plen.isLt

/-- A pending count fits REMAIN (R33, R91). -/
theorem Pending.Valid.count_lt {p : Pending} (h : p.Valid) : p.count < 2 ^ 24 := by
  obtain ⟨op, count, collected⟩ := p
  obtain ⟨-, fits⟩ := h
  cases op with
  | update => exact fits
  | loadpart => exact Nat.lt_trans fits (by decide)

/-- REMAIN reads the bytes outstanding of a pending command that fits its field (R32). -/
theorem toNat_regRead_remain {s : State} {p : Pending} (pending : s.pend = some p) (valid : p.Valid) :
    (regRead s 0x00C).toNat = p.count - p.collected.length := by
  have fits : p.count - p.collected.length < 2 ^ 24 := (Nat.sub_le _ _).trans_lt valid.count_lt
  rw [regRead_remain, State.remain, pending, BitVec.toNat_setWidth_of_le (by decide),
    BitVec.toNat_ofNat]
  exact Nat.mod_eq_of_lt fits

/-- While no digest is valid DIG reads 0 (R30, R36 item 4). -/
theorem regRead_dig_of_blank {s : State} (blank : s.dig = zeros64) (j : Fin 16) :
    regRead s (0x080 + 4 * j.val) = 0#32 := by
  rw [regRead_dig, blank, wordAt_zeros64]

/-- Settles O42: every read of an unspecified register is the draw, and the invariants give the rest. -/
theorem readsWhileBusy : Obligations.ReadsWhileBusy := by
  intro s p h pending
  obtain ⟨active, valid⟩ := h.pending_active p pending
  have busy : s.busy = true := busy_of_pending pending
  refine ⟨toNat_regRead_remain pending valid, ?_, ?_, fun j => ⟨?_, ?_, ?_, ?_, ?_, ?_⟩⟩
  · rw [toNat_regRead_remain pending valid]
    exact Nat.sub_pos_of_lt valid.1
  · rw [regRead_status, statusWord_plenField, plenField, if_pos busy]
  · exact regRead_dig_of_blank (h.blank_of_active active) j
  · rw [regRead_len, orDraw_of_busy busy]
  · rw [regRead_h, orDraw_of_busy busy]
  · rw [regRead_n, orDraw_of_busy busy]
  · rw [regRead_sigma, orDraw_of_busy busy]
  · rw [regRead_buf, orDraw_of_busy busy]

/-- Settles O43: with nothing pending no read is a draw. -/
theorem contextReadsWhenIdle : Obligations.ContextReadsWhenIdle := by
  intro s idle
  have notBusy : s.busy = false := busy_of_idle idle
  refine ⟨?_, fun j => ⟨?_, regRead_dig s j, ?_, ?_, ?_, ?_⟩⟩
  · rw [regRead_remain, State.remain, idle]
    rfl
  · rw [regRead_len, orDraw_of_not_busy notBusy, wordAt_bytes512]
  · rw [regRead_h, orDraw_of_not_busy notBusy]
  · rw [regRead_n, orDraw_of_not_busy notBusy, wordAt_bytes512]
  · rw [regRead_sigma, orDraw_of_not_busy notBusy, wordAt_bytes512]
  · rw [regRead_buf, orDraw_of_not_busy notBusy]

/-- Settles O54: outside DONE the digest register is zero. -/
theorem noPartialDigestIsRead : Obligations.NoPartialDigestIsRead := by
  intro s j h invalid
  have notDone : s.lifecycle ≠ .done := of_decide_eq_false invalid
  obtain ⟨blank, -⟩ := h.not_done_blank notDone
  exact regRead_dig_of_blank blank j

@[simp] theorem bytes512_zero : bytes512 0#512 = zeros64 := by
  ext1 i hi
  rw [getElem_bytes512, getElem_zeros64, BitVec.extractLsb'_zero]

theorem len_reset : State.reset.len = 0#512 := by
  simp [State.len, State.reset]

/-- STATUS reads 0 after reset, whatever the draw: nothing is pending (R37). -/
theorem statusWord_reset (draw : Word) :
    statusWord (plenField State.reset draw) State.reset = 0#32 := by
  rw [plenField, if_neg (by decide)]
  decide

/-- Every register reads 0 after reset, whatever the draw (R37). -/
theorem readReg_reset (draw : Word) (r : Reg) : readReg State.reset draw r = 0#32 := by
  cases r with
  | cmd | data | reserved | remain => rfl
  | status => exact statusWord_reset draw
  | dig j | h j | buf j => exact wordAt_zeros64 j
  | len j =>
    show wordAt (bytes512 State.reset.len) j = 0#32
    rw [len_reset, bytes512_zero, wordAt_zeros64]
  | n j | sigma j =>
    show wordAt (bytes512 0#512) j = 0#32
    rw [bytes512_zero, wordAt_zeros64]

/-- Settles O46: the reset values are R37's by definition, and every register reads 0. -/
theorem resetValues : Obligations.ResetValues :=
  ⟨rfl, rfl, rfl, rfl, rfl, rfl, rfl, rfl, rfl, rfl, rfl, fun _ _ _ => readReg_reset _ _⟩

end Sys2Proof.Machine

/-! ## Which accesses have a meaning, and where a word is written (R61, R62, R78, R79, R98) -/

namespace Sys2Proof

section TableRow
variable {w fixed mask : Word} (row : w &&& mask = fixed)
include row

/-- A row that fixes the low four bits fixes the opcode. -/
theorem opField_of_row (covers : opField mask = 0xF#4) : opField w = opField fixed := by
  have masked : opField (w &&& mask) = opField w &&& opField mask := BitVec.extractLsb'_and ..
  rw [← row, masked, covers]
  exact (BitVec.and_allOnes (x := opField w)).symm

/-- A word of a row that fixes the opcode and clears its reserved bits is a command (R93, R98). -/
theorem decodeCommand_of_row {rz : Word} (covers : opField mask = 0xF#4)
    (opcode : reservedZero (opField fixed) = some rz) (within : mask &&& rz = rz)
    (clear : fixed &&& rz = 0#32) : decodeCommand w = .ok (commandOf w) := by
  have unreserved : w &&& rz = 0#32 := by rw [← within, ← BitVec.and_assoc, row, clear]
  rw [← opField_of_row row covers] at opcode
  rw [decodeCommand_of_mask opcode, if_neg (not_not.mpr unreserved)]

end TableRow

theorem decodeCommand_encode_update {n : Nat} (wf : (Instr.update n).WellFormed) :
    decodeCommand (encode (.update n)) = .ok (.update n) := by
  have row : encode (.update n) &&& 0x000000FF#32 = 0x00000002#32 := Laws.TableRow.update n wf
  have opcode := opField_of_row row (by decide)
  have count : count24Field (encode (.update n)) = n := by
    rw [count24Field_eq, encode, toNat_countWord (of_decide_eq_true wf) (by decide)]
    omega
  rw [decodeCommand_of_row row (rz := 0x000000F0#32) (by decide) (by decide) (by decide) (by decide),
    commandOf, opcode, count]
  rfl

theorem decodeCommand_encode_loadpart {k : Nat} (wf : (Instr.loadpart k).WellFormed) :
    decodeCommand (encode (.loadpart k)) = .ok (.loadpart k) := by
  have bound : k < 64 := of_decide_eq_true wf
  have row : encode (.loadpart k) &&& 0xFFFFC0FF#32 = 0x00000004#32 := Laws.TableRow.loadpart k wf
  have opcode := opField_of_row row (by decide)
  have count : count6Field (encode (.loadpart k)) = k := by
    rw [count6Field_eq, encode, toNat_countWord (by omega) (by decide)]
    omega
  rw [decodeCommand_of_row row (rz := 0xFFFFC0F0#32) (by decide) (by decide) (by decide) (by decide),
    commandOf, opcode, count]
  rfl

/-- The decoder reads a command back from its word (R91, R94, R100). -/
theorem decodeCommand_encode {i : Instr} (wf : i.WellFormed) (command : i.port = .cmd) :
    decodeCommand (encode i) = .ok i := by
  cases i with
  | init v => cases v <;> rfl
  | update n => exact decodeCommand_encode_update wf
  | final => rfl
  | loadpart k => exact decodeCommand_encode_loadpart wf
  | clrerr => rfl
  | data w => cases command

/-- A payload byte is the low byte of its word and nothing else (R69). -/
theorem dataByte_congr {w w' : Word} (low : w.toNat % 256 = w'.toNat % 256) :
    dataByte w = dataByte w' := by
  apply BitVec.eq_of_toNat_eq
  rw [dataByte_eq, dataByte_eq, BitVec.toNat_ofNat, BitVec.toNat_ofNat]
  exact low

end Sys2Proof

namespace Sys2Proof.Machine

/-! ### Defined accesses (R62) -/

theorem definedAccess_iff {width : AccessWidth} {off : Nat} :
    definedAccess width off = true ↔ width = .w32 ∧ off % 4 = 0 ∧ off ≤ 0x1FC := by
  simp only [definedAccess, Bool.and_eq_true, decide_eq_true_iff, and_assoc]

section Defined
variable {off : Nat} (aligned : off % 4 = 0) (inside : off ≤ 0x1FC) (s : State)
include aligned inside

theorem performAccess_read_of_defined :
    performAccess (.read .w32 off) s = .next (hostRead off s) :=
  if_pos (definedAccess_iff.mpr ⟨rfl, aligned, inside⟩)

theorem performAccess_write_of_defined (v : Word) :
    performAccess (.write .w32 off v) s = regWrite off v s :=
  if_pos (definedAccess_iff.mpr ⟨rfl, aligned, inside⟩)

end Defined

section Undefined
variable {width : AccessWidth} {off : Nat} (bad : width ≠ .w32 ∨ off % 4 ≠ 0 ∨ 0x1FC < off)
include bad

theorem not_definedAccess : ¬ definedAccess width off = true := by
  rw [definedAccess_iff]
  rintro ⟨wide, aligned, inside⟩
  rcases bad with narrow | unaligned | outside
  · exact narrow wide
  · exact unaligned aligned
  · exact outside.not_ge inside

theorem performAccess_read_of_undefined (s : State) :
    performAccess (.read width off) s = .refused .undefinedAccess := if_neg (not_definedAccess bad)

theorem performAccess_write_of_undefined (v : Word) (s : State) :
    performAccess (.write width off v) s = .refused .undefinedAccess :=
  if_neg (not_definedAccess bad)

end Undefined

/-! ### Writes (R79, R98) -/

theorem performAccess_write_cmd (v : Word) (s : State) :
    performAccess (.write .w32 0x000 v) s = command v s := rfl

theorem performAccess_write_data (v : Word) (s : State) :
    performAccess (.write .w32 0x008 v) s = exec (.data v) s := rfl

theorem exec_data (w : Word) (s : State) :
    exec (.data w) s = .next (dataPush Config.params (dataByte w) s) := rfl

theorem command_of_ok {v : Word} {i : Instr} (h : decodeCommand v = .ok i) (s : State) :
    command v s = exec i s := by
  rw [command, h]

theorem command_of_error {v : Word} {e : ErrorCode} (h : decodeCommand v = .error e) (s : State) :
    command v s = .next (raiseError e s) := by
  rw [command, h]

/-- A command word is rejected or performed, and either answers (R220, R222). -/
theorem command_answers (v : Word) (s : State) : ∃ t, command v s = .next t := by
  rcases h : decodeCommand v with e | i
  · exact ⟨_, command_of_error h s⟩
  · rw [command_of_ok h s]
    exact exec_answers i s

theorem regWrite_answers (off : Nat) (v : Word) (s : State) : ∃ t, regWrite off v s = .next t := by
  unfold regWrite
  cases regAt off with
  | cmd => exact command_answers v s
  | data => exact exec_answers _ s
  | _ => exact ⟨s, rfl⟩

/-- Settles O6: the decoder reads the instruction back from its word. -/
theorem writeOfAnEncodedWordPerformsIt : Obligations.WriteOfAnEncodedWordPerformsIt := by
  refine ⟨fun i s wf port => ?_, performAccess_write_data⟩
  rw [performAccess_write_cmd, command_of_ok (decodeCommand_encode wf port)]

/-- Settles O7: DATA pushes the low byte of its word. -/
theorem dataIgnoresTheUpperBits : Obligations.DataIgnoresTheUpperBits := by
  intro w w' s low
  rw [exec_data, exec_data, dataByte_congr low]

/-- Settles O10: the definedness test is R62's, and whatever passes it answers. -/
theorem onlyUndefinedAccessesAreRefused : Obligations.OnlyUndefinedAccessesAreRefused := by
  refine ⟨fun w off v s bad => ?_, fun off v s aligned inside => ?_, fun s => ⟨_, rfl⟩⟩
  · exact ⟨performAccess_read_of_undefined bad s, performAccess_write_of_undefined bad v s⟩
  · rw [performAccess_read_of_defined aligned inside, performAccess_write_of_defined aligned inside]
    exact ⟨⟨_, rfl⟩, regWrite_answers off v s⟩

/-! ### The step (R71, R72, R152) -/

theorem step_of_cons {s : State} {a : Access} {rest : List Access} (h : s.requests = a :: rest) :
    step s = performAccess a { s with requests := rest } := by
  rw [step, nextAccess, h]

theorem step_of_nil {s : State} (h : s.requests = []) : step s = .refused .noHostAccess := by
  rw [step, nextAccess, h]

/-- Settles O8, by the two forms of the host's list of accesses. -/
theorem stepPerformsTheNextAccess : Obligations.StepPerformsTheNextAccess :=
  ⟨fun _ _ _ => step_of_cons, fun _ => step_of_nil⟩

/-- Settles O9: the step is the write, and the write is what its word decodes to. -/
theorem stepRunsTheDecodedInstruction : Obligations.StepRunsTheDecodedInstruction := by
  intro s p w i rest issued decoded
  rw [step_of_cons issued]
  cases p with
  | cmd => exact command_of_ok decoded _
  | data =>
    obtain rfl : decodeData w = i := Except.ok.inj decoded
    exact performAccess_write_data w _

/-! ### The word view and the register map (R61, R67) -/

/-- Byte `k` of word `j` is byte `4 * j + k` (R67). -/
theorem extractLsb'_wordAt (B : Bytes64) (j : Fin 16) (k : Fin 4) :
    (wordAt B j).extractLsb' (8 * k.val) 8 = B[4 * j.val + k.val] := by
  refine BitVec.eq_of_getLsbD_eq fun b hb => ?_
  have byte : (8 * k.val + b) / 8 = k.val := by omega
  have bit : (8 * k.val + b) % 8 = b := by omega
  rw [BitVec.getLsbD_extractLsb', getLsbD_wordAt _ _ _ (by omega)]
  simp only [byte, bit, hb, decide_true, Bool.true_and]

/-- Settles O39, by the bytes of a word and by the bits of an integer's word. -/
theorem wordViewIsLittleEndian : Obligations.WordViewIsLittleEndian := by
  refine ⟨fun B j k => ?_, wordAt_bytes512⟩
  have inside : 4 * j.val + k.val < B.toList.length := by rw [Vector.length_toList]; omega
  rw [extractLsb'_wordAt, List.getD_eq_getElem _ _ inside, Vector.getElem_toList]

/-- The word number of an offset in a window leads back to the offset. -/
theorem add_wordIndex {start off : Nat} (window : start ≤ off ∧ off < start + 64)
    (aligned : off % 4 = 0) (start_aligned : start % 4 = 0) :
    start + 4 * (wordIndex start off).val = off := by
  rw [wordIndex, Fin.val_ofNat]
  omega

section RegisterMap
variable {off : Nat}

theorem regAt_of_reserved_range (range : (0x010 ≤ off ∧ off ≤ 0x03C) ∨ (0x0C0 ≤ off ∧ off ≤ 0x0FC)) :
    regAt off = .reserved := by
  simp (disch := omega) only [regAt, if_neg]

variable (aligned : off % 4 = 0) (inside : off ≤ 0x1FC)
include aligned inside

/-- The named registers leave no gap outside the two reserved ranges (R61). -/
theorem exists_named_of_outside
    (outside : ¬ ((0x010 ≤ off ∧ off ≤ 0x03C) ∨ (0x0C0 ≤ off ∧ off ≤ 0x0FC))) :
    ∃ r : Reg, r ≠ .reserved ∧ regOffset r = off := by
  have place : (0x000 = off ∨ 0x004 = off ∨ 0x008 = off ∨ 0x00C = off) ∨
      (0x040 ≤ off ∧ off < 0x080) ∨ (0x080 ≤ off ∧ off < 0x0C0) ∨ (0x100 ≤ off ∧ off < 0x140) ∨
      (0x140 ≤ off ∧ off < 0x180) ∨ (0x180 ≤ off ∧ off < 0x1C0) ∨ (0x1C0 ≤ off ∧ off < 0x200) := by
    omega
  rcases place with (cmd | status | data | remain) | len | dig | h | n | sigma | buf
  · exact ⟨.cmd, nofun, cmd⟩
  · exact ⟨.status, nofun, status⟩
  · exact ⟨.data, nofun, data⟩
  · exact ⟨.remain, nofun, remain⟩
  · exact ⟨.len _, nofun, add_wordIndex len aligned rfl⟩
  · exact ⟨.dig _, nofun, add_wordIndex dig aligned rfl⟩
  · exact ⟨.h _, nofun, add_wordIndex h aligned rfl⟩
  · exact ⟨.n _, nofun, add_wordIndex n aligned rfl⟩
  · exact ⟨.sigma _, nofun, add_wordIndex sigma aligned rfl⟩
  · exact ⟨.buf _, nofun, add_wordIndex buf aligned rfl⟩

theorem regAt_eq_reserved_iff :
    regAt off = .reserved ↔ (0x010 ≤ off ∧ off ≤ 0x03C) ∨ (0x0C0 ≤ off ∧ off ≤ 0x0FC) := by
  refine ⟨fun reserved => ?_, regAt_of_reserved_range⟩
  by_contra outside
  obtain ⟨r, named, rfl⟩ := exists_named_of_outside aligned inside outside
  exact named ((regAt_regOffset named).symm.trans reserved)

theorem regOffset_regAt (named : regAt off ≠ .reserved) : regOffset (regAt off) = off := by
  have outside := (regAt_eq_reserved_iff aligned inside).not.mp named
  obtain ⟨r, named', rfl⟩ := exists_named_of_outside aligned inside outside
  rw [regAt_regOffset named']

end RegisterMap

/-- Settles O40: the map inverts `regOffset`, which reaches every offset outside the reserved ranges. -/
theorem registerMapIsR61 : Obligations.RegisterMapIsR61 :=
  ⟨fun _ => regAt_regOffset, fun _ => regOffset_regAt, fun _ => regAt_eq_reserved_iff⟩

/-! ### Reads and ignored writes (R63 to R65) -/

/-- A register is a view of the block's own state, which no read changes (R65). -/
theorem readReg_hostRead (off : Nat) (s : State) (draw : Word) (r : Reg) :
    readReg (hostRead off s) draw r = readReg s draw r := rfl

theorem readDraws_of_idle {s : State} (idle : s.pend = none) (r : Reg) : readDraws s r = false := by
  rw [readDraws, busy_of_idle idle, Bool.false_and]

/-- A read that is not a draw leaves the supply of free values (R70). -/
theorem hostRead_of_no_draw {off : Nat} {s : State} (noDraw : readDraws s (regAt off) = false) :
    hostRead off s = { s with replies := s.replies ++ [regRead s off] } := by
  rw [hostRead, noDraw, if_neg Bool.false_ne_true]

/-- Settles O44: a read writes the host's side alone, and with nothing pending it is no draw. -/
theorem readsHaveNoSideEffect : Obligations.ReadsHaveNoSideEffect := by
  intro off s aligned inside
  refine ⟨_, performAccess_read_of_defined aligned inside s, rfl, rfl, rfl, fun idle => ?_⟩
  have draws : (hostRead off s).draws = s.draws := by
    rw [hostRead_of_no_draw (readDraws_of_idle idle _)]
  exact ⟨draws, by rw [regRead, readReg_hostRead, draws, regRead]⟩

/-- The write-only registers and the reserved offsets read 0, and no such read is a draw (R63, R64). -/
theorem hostRead_of_unreadable {off : Nat} (s : State)
    (unreadable : regAt off = .cmd ∨ regAt off = .data ∨ regAt off = .reserved) :
    hostRead off s = { s with replies := s.replies ++ [0#32] } := by
  have noDraw : readDraws s (regAt off) = false := by
    rcases unreadable with h | h | h <;> rw [readDraws, h] <;> exact Bool.and_false _
  have zero : regRead s off = 0#32 := by
    rcases unreadable with h | h | h <;> rw [regRead, h] <;> rfl
  rw [hostRead_of_no_draw noDraw, zero]

/-- Of all that a write can do, only being ignored is left outside CMD and DATA (R63, R64, R79). -/
theorem regWrite_of_other {off : Nat} (notCmd : off ≠ 0x000) (notData : off ≠ 0x008)
    (aligned : off % 4 = 0) (inside : off ≤ 0x1FC) (v : Word) (s : State) :
    regWrite off v s = .next s := by
  obtain ⟨t, answer⟩ := regWrite_answers off v s
  have written := performAccess_write_of_defined aligned inside s v
  obtain ⟨-, ⟨cmd, -⟩ | ⟨cmd, -⟩ | ⟨data, -⟩ | ⟨-, -, rfl⟩⟩ := performAccess_write (written.trans answer)
  · exact absurd cmd notCmd
  · exact absurd cmd notCmd
  · exact absurd data notData
  · exact answer

/-- Settles O45: such a write is ignored, and such a read answers 0 without a draw. -/
theorem otherOffsetsIgnoreWritesAndReadZero : Obligations.OtherOffsetsIgnoreWritesAndReadZero := by
  refine ⟨fun off v s aligned inside notCmd notData => ?_, fun off s aligned inside place => ?_⟩
  · rw [performAccess_write_of_defined aligned inside,
      regWrite_of_other notCmd notData aligned inside]
  · have unreadable : regAt off = .cmd ∨ regAt off = .data ∨ regAt off = .reserved := by
      rcases place with rfl | rfl | reserved
      · exact .inl rfl
      · exact .inr (.inl rfl)
      · exact .inr (.inr (regAt_of_reserved_range reserved))
    rw [performAccess_read_of_defined aligned inside, hostRead_of_unreadable s unreadable]

end Sys2Proof.Machine

/-! ## The decoder's round trips and its rejections (R90 to R100, R223) -/

namespace Sys2Proof

/-- Settles O1: every decoder test on a written-out word evaluates. -/
theorem writtenOutWordsDecode : Obligations.WrittenOutWordsDecode :=
  ⟨rfl, rfl, rfl, rfl, rfl, rfl, rfl, rfl⟩

/-- Settles O2: CMD reads back the five commands, and DATA takes every word as it is. -/
theorem decodeOfEncodeIsTheInstruction : Obligations.DecodeOfEncodeIsTheInstruction := by
  intro i wf
  cases i with
  | data w => rfl
  | _ => exact decodeCommand_encode wf rfl

/-- Settles O3, by what an accepted command word says of itself; a DATA word is its own instruction. -/
theorem encodeOfDecodeIsTheWord : Obligations.EncodeOfDecodeIsTheWord := by
  intro p w i accepted
  cases p with
  | cmd =>
    exact ⟨wellFormed_of_decodeCommand accepted, Machine.decodeCommand_port accepted,
      encode_of_decodeCommand accepted⟩
  | data =>
    obtain rfl : decodeData w = i := Except.ok.inj accepted
    exact ⟨rfl, rfl, rfl⟩

/-- The opcode is the word modulo 16 (R92). -/
theorem opField_of_mod {w : Word} {c : Nat} (op : w.toNat % 16 = c) :
    opField w = BitVec.ofNat 4 c := by
  rw [← op, ← toNat_opField, BitVec.ofNat_toNat, BitVec.setWidth_eq]

/-- The opcodes without a row in R93 are 0 and 6 to 15 (R95). -/
theorem reservedZero_eq_none : ∀ {op : BitVec 4}, (op.toNat = 0 ∨ 6 ≤ op.toNat) →
    reservedZero op = none := by
  decide

theorem decodeCommand_of_reserved_opcode {w : Word}
    (reserved : w.toNat % 16 = 0 ∨ 6 ≤ w.toNat % 16) : decodeCommand w = .error .eopc := by
  rw [← toNat_opField] at reserved
  exact decodeCommand_of_reserved (reservedZero_eq_none reserved)

/-- A defined opcode with a bit of its mask set is rejected (R93, R96). -/
theorem decodeCommand_of_reserved_field {w rz : Word} {c : Nat} (op : w.toNat % 16 = c)
    (row : reservedZero (BitVec.ofNat 4 c) = some rz) (set : w &&& rz ≠ 0#32) :
    decodeCommand w = .error .efield := by
  rw [← opField_of_mod op] at row
  rw [decodeCommand_of_mask row, if_pos set]

/-- A count above COUNT6 reaches into bits [31:14], which LOADPART reserves (R91, R93). -/
theorem decodeCommand_loadpart_of_large {k : Nat} (large : 63 < k) (fits : k < 16777216) :
    decodeCommand (BitVec.ofNat 32 k <<< 8 ||| 0x4#32) = .error .efield := by
  have value := toNat_countWord fits (c := 4) (by decide)
  refine decodeCommand_of_reserved_field (c := 4) (by omega) rfl fun clear => ?_
  have high := toNat_field_eq_zero_of_mask clear 14 18 (by decide)
  rw [value] at high
  omega

end Sys2Proof

namespace Sys2Proof.Machine

/-- A rejected command word raises its error and nothing else (R98). -/
theorem performAccess_write_cmd_of_error {w : Word} {e : ErrorCode} (h : decodeCommand w = .error e)
    (s : State) : performAccess (.write .w32 0x000 w) s = .next (raiseError e s) :=
  (performAccess_write_cmd w s).trans (command_of_error h s)

/-- Settles O4: the decoder rejects a reserved opcode before anything else. -/
theorem reservedOpcodeRaisesEopc : Obligations.ReservedOpcodeRaisesEopc :=
  fun _ s reserved => performAccess_write_cmd_of_error (decodeCommand_of_reserved_opcode reserved) s

/-- Settles O5, by the opcode's row of R93; a large LOADPART count sets a bit of its own row. -/
theorem reservedFieldRaisesEfield : Obligations.ReservedFieldRaisesEfield := by
  refine ⟨fun w s reserved => performAccess_write_cmd_of_error ?_ s, fun k s large fits =>
    performAccess_write_cmd_of_error (decodeCommand_loadpart_of_large large fits) s⟩
  rcases reserved with ⟨init, set⟩ | ⟨update, set⟩ | ⟨final, set⟩ | ⟨loadpart, set⟩ | ⟨clrerr, set⟩
  · exact decodeCommand_of_reserved_field init rfl set
  · exact decodeCommand_of_reserved_field update rfl set
  · exact decodeCommand_of_reserved_field final rfl set
  · exact decodeCommand_of_reserved_field loadpart rfl set
  · exact decodeCommand_of_reserved_field clrerr rfl set

/-- The acceptance checks look for a pending command first (R98, R223). -/
theorem whenAccepted_of_pending (effect : State → State) {s : State} (pending : s.pend ≠ none) :
    whenAccepted effect s = raiseError .ebusy s :=
  if_pos (Option.isSome_iff_ne_none.mpr pending)

/-- Settles O12: UPDATE, LOADPART and FINAL all make the acceptance checks. -/
theorem pendingCommandMakesOthersBusy : Obligations.PendingCommandMakesOthersBusy := by
  intro i s command pending
  rcases command with rfl | ⟨n, rfl⟩ | ⟨k, rfl⟩
  · exact congrArg Host.Outcome.next (whenAccepted_of_pending _ pending)
  · exact congrArg Host.Outcome.next (whenAccepted_of_pending _ pending)
  · exact congrArg Host.Outcome.next (whenAccepted_of_pending _ pending)

end Sys2Proof.Machine

/-! ## INIT and CLRERR in every state (R120 to R125) -/

namespace Sys2Proof.Machine

/-- INIT is accepted in every state (R120). -/
theorem exec_init (v : Variant) (s : State) :
    exec (.init v) s = .next (initContext Config.params v s) := rfl

theorem initContext_initContext (P : Params) (v : Variant) (s : State) :
    initContext P v (initContext P v s) = initContext P v s := rfl

/-- Settles O16: the constant is chosen by the variant, and no field depends on another. -/
theorem initResetsTheContext : Obligations.InitResetsTheContext := by
  intro v s
  cases v with
  | v512 => exact exec_init .v512 s
  | v256 => exact exec_init .v256 s

/-- Settles O17: the second INIT writes what the first one left. -/
theorem initIsIdempotent : Obligations.InitIsIdempotent := by
  intro v s
  refine ⟨initContext Config.params v s, exec_init v s, ?_⟩
  rw [exec_init, initContext_initContext]

/-- Settles O18: the result of INIT names no other field of the state it starts from. -/
theorem initForgetsTheMessage : Obligations.InitForgetsTheMessage := by
  intro v s s' err errcode requests replies draws
  rw [initResetsTheContext v s, initResetsTheContext v s', err, errcode, requests, replies, draws]

/-- Settles O19: CLRERR has no acceptance check and writes ERR and ERRCODE alone. -/
theorem clrerrClearsTheReport : Obligations.ClrerrClearsTheReport := fun _ => rfl

end Sys2Proof.Machine

/-! ## A short message right after INIT (R145, R201) -/

namespace Sys2Proof.Machine

/-- Fewer than 64 bytes hold no whole block: they are all remainder (R144). -/
theorem absorbAligned_of_short (P : Params) {d : List Byte} (short : d.length < 64) (s : State) :
    absorbAligned P d s = keepRemainder d s := by
  have no_block : d.length / 64 = 0 := Nat.div_eq_of_lt short
  rw [absorbAligned, no_block]
  rfl

/-- From a buffer with nothing in it, keeping a remainder loads it, the empty one too (R145, R201). -/
theorem keepRemainder_of_emptyBuffer (r : List Byte) {s : State} (empty : emptyBuffer s = s) :
    keepRemainder r s = loadPartial r s := by
  cases r with
  | nil =>
    rw [keepRemainder_nil, loadPartial, padZeros_nil]
    exact empty.symm
  | cons b r => exact keepRemainder_of_ne_nil s (List.cons_ne_nil b r)

/-- Settles O26: the buffer is empty after INIT, so an UPDATE has no top-up and at most 63 bytes are a
remainder that it keeps as LOADPART does. -/
theorem loadpartAfterInitActsAsUpdate : Obligations.LoadpartAfterInitActsAsUpdate := by
  intro P v d s short
  symm
  calc absorb P d (initContext P v s)
      = absorbAligned P d (initContext P v s) := absorb_of_empty P rfl
    _ = keepRemainder d (initContext P v s) := absorbAligned_of_short P (Nat.lt_succ_of_le short) _
    _ = loadPartial d (initContext P v s) := keepRemainder_of_emptyBuffer d rfl

end Sys2Proof.Machine

/-! ## The padded block and the digest of the empty message (R170 to R177) -/

namespace Sys2Proof.Machine

/-- Zeros above a byte list do not count in its integer (R10). -/
theorem int512_padZeros (d : List Byte) : int512 (padZeros d) = BitVec.ofNat 512 (natOfBytes d) := by
  refine BitVec.eq_of_getLsbD_eq fun k hk => ?_
  rw [getLsbD_int512 _ _ hk, getElem_padZeros, BitVec.getLsbD_ofNat, testBit_natOfBytes]
  simp [hk]

/-- Padding the buffer that holds `d` appends the marker byte to `d` (R171). -/
theorem pad_padZeros (d : List Byte) : pad (padZeros d) d.length = padZeros (d ++ [0x01#8]) := by
  ext1 i hi
  rw [getElem_pad, getElem_padZeros, getElem_padZeros]
  rcases Nat.lt_trichotomy i d.length with inside | marker | above
  · rw [if_pos inside, List.getD_append _ _ _ _ inside]
  · simp [marker]
  · rw [if_neg (by omega), if_neg (by omega), List.getD_eq_default _ _ (by simp; omega)]

section FinalDigest
variable (P : Params) (s : State)

theorem finalDigest_n :
    (finalDigest P s).n = s.n + BitVec.ofNat 512 (8 * s.plen.val) := rfl

theorem finalDigest_sigma :
    (finalDigest P s).sigma = s.sigma + int512 (pad s.buf s.plen.val) := rfl

/-- The three passes: the padded block keyed by the counter, then the length and the checksum it leaves,
both keyed by zero (R172). -/
theorem finalDigest_h : (finalDigest P s).h =
    P.G (P.G (P.G s.h (bytes512 s.n) (pad s.buf s.plen.val)) zeros64 (bytes512 (finalDigest P s).n))
      zeros64 (bytes512 (finalDigest P s).sigma) := rfl

end FinalDigest

/-- With nothing pending in ACTIVE, FINAL is accepted (R170). -/
theorem exec_final_of_active {s : State} (hp : s.pend = none) (ha : s.lifecycle = .active) :
    exec .final s = .next (finalDigest Config.params s) := by
  rw [exec, execFinal, whenAccepted_of_active _ hp ha]

/-- FINAL is accepted right after INIT (R120, R170). -/
theorem execAll_init_final (v : Variant) (s : State) : execAll [.init v, .final] s
    = .next (finalDigest Config.params (initContext Config.params v s)) := by
  rw [execAll_cons_of_next (exec_init v s), execAll_cons_of_next (exec_final_of_active rfl rfl),
    execAll_nil]

section EmptyMessage
variable (P : Params) (v : Variant) (s : State)

/-- The padded block of the empty message is the marker byte alone (R171). -/
theorem pad_initContext :
    pad (initContext P v s).buf (initContext P v s).plen.val = padZeros [0x01#8] := by
  rw [initContext_buf, ← padZeros_nil]
  exact pad_padZeros []

theorem int512_marker : int512 (padZeros [0x01#8]) = 1#512 := int512_padZeros _

theorem finalDigest_initContext_n : (finalDigest P (initContext P v s)).n = 0#512 := by
  rw [finalDigest_n, initContext_n, BitVec.zero_add]
  rfl

theorem finalDigest_initContext_sigma : (finalDigest P (initContext P v s)).sigma = 1#512 := by
  rw [finalDigest_sigma, initContext_sigma, BitVec.zero_add, pad_initContext, int512_marker]

/-- The last chaining value of the empty message (R172, R177). -/
theorem finalDigest_initContext_h : (finalDigest P (initContext P v s)).h =
    P.G (P.G (P.G (P.iv v) zeros64 (padZeros [0x01#8])) zeros64 zeros64) zeros64
      (bytes512 1#512) := by
  rw [finalDigest_h, pad_initContext, finalDigest_initContext_n, finalDigest_initContext_sigma,
    initContext_h, initContext_n, bytes512_zero]

end EmptyMessage

/-- Settles O36: FINAL runs its three passes on the context INIT leaves. -/
theorem emptyMessageDigest : Obligations.EmptyMessageDigest := by
  intro v s
  have last_chaining := finalDigest_initContext_h Config.params v s
  refine ⟨int512_marker, _, execAll_init_final v s, ?_, last_chaining, finalDigest_initContext_n _ v s,
    finalDigest_initContext_sigma _ v s, rfl⟩
  rw [finalDigest_dig, last_chaining, initContext_var]

end Sys2Proof.Machine

/-! ## UPDATE and DATA, one access at a time (R140, R141, R150, R223) -/

namespace Sys2Proof.Machine

/-- With nothing pending the acceptance checks reject a command outside ACTIVE (R98, R223). -/
theorem whenAccepted_of_not_active (effect : State → State) {s : State} (idle : s.pend = none)
    (inactive : s.lifecycle ≠ .active) : whenAccepted effect s = raiseError .eseq s := by
  simp [whenAccepted, State.busy, idle, inactive]

/-- A DATA word with nothing pending is rejected (R141). -/
theorem exec_data_of_idle {w : Word} {s : State} (idle : s.pend = none) :
    exec (.data w) s = .next (raiseError .edata s) := by
  simp [exec, execData, dataPush, idle]

/-- Settles O13: UPDATE, LOADPART and FINAL all make the acceptance checks, before they look at a
count. -/
theorem commandsOutsideActiveRaiseEseq : Obligations.CommandsOutsideActiveRaiseEseq := by
  intro i s command idle inactive
  rcases command with rfl | ⟨n, rfl⟩ | ⟨k, rfl⟩
  · exact congrArg Host.Outcome.next (whenAccepted_of_not_active _ idle inactive)
  · exact congrArg Host.Outcome.next (whenAccepted_of_not_active _ idle inactive)
  · exact congrArg Host.Outcome.next (whenAccepted_of_not_active _ idle inactive)

/-- Settles O20: an accepted UPDATE has collected nothing yet, so that it needs its whole count. -/
theorem updateBecomesPending : Obligations.UpdateBecomesPending := by
  refine ⟨fun n s nonzero _ active idle => ?_, fun s active idle => exec_update_zero idle active⟩
  exact ⟨_, exec_update_of_pos idle active nonzero.ne', rfl, rfl, rfl, rfl⟩

/-- Settles O22: a byte that is not the last is one byte less to come. -/
theorem dataCollectsOrRaisesEdata : Obligations.DataCollectsOrRaisesEdata := by
  refine ⟨fun w s idle => exec_data_of_idle idle, fun w s op count col busy more => ?_⟩
  refine ⟨_, exec_data_of_more busy more, by rw [dataByte_eq], ?_⟩
  simp only [State.remain, Pending.remain, busy, List.length_append, List.length_singleton]
  omega

/-- Settles O25: a LOADPART of at most 63 bytes loads what it has collected, and its length is PLEN. -/
theorem lastByteOfALoadpartLoads : Obligations.LastByteOfALoadpartLoads := by
  intro w s count col busy last fits
  refine ⟨_, exec_data_of_last busy last.le, rfl, ?_, fun i => ?_⟩
  · have whole : (col ++ [dataByte w]).length = count := by simp [last]
    show (col ++ [dataByte w]).length % 64 = count
    rw [whole, Nat.mod_eq_of_lt (Nat.lt_succ_of_le fits)]
  · rw [← dataByte_eq]
    exact getElem_padZeros _ _ i.isLt

end Sys2Proof.Machine

/-! ## The byte-serial loop (R143 to R149) -/

namespace Sys2Proof.Machine

/-- Settles O30, by the counters of absorption. -/
theorem absorbCountsItsBlocks : Obligations.AbsorbCountsItsBlocks :=
  fun P d _ => ⟨absorb_n P d, absorb_plen P d⟩

/-- A run of bytes is written one byte at a time, lowest first (R143). -/
theorem overwrite_cons (B : Bytes64) (start : Fin 64) (b : Byte) (d : List Byte) :
    overwrite B start.val (b :: d) = overwrite (B.set start.val b) (start.val + 1) d := by
  ext1 i hi
  rw [getElem_overwrite, getElem_overwrite, Vector.getElem_set, List.length_cons]
  rcases Nat.lt_trichotomy i start.val with below | here | above
  · rw [if_neg (by omega), if_neg (by omega), if_neg (by omega)]
  · rw [if_pos (by omega), if_neg (by omega), if_pos here.symm, here, Nat.sub_self]
    rfl
  · obtain ⟨k, rfl⟩ : ∃ k, i = start.val + 1 + k := ⟨i - (start.val + 1), by omega⟩
    have next : start.val + 1 + k - start.val = k + 1 := by omega
    rw [next, Nat.add_sub_cancel_left, List.getD_cons_succ]
    exact if_congr (by omega) rfl (if_neg (by omega)).symm

/-- Overwriting an empty buffer from its start is padding with zeros (R143, R145). -/
theorem overwrite_zeros64 (d : List Byte) : overwrite zeros64 0 d = padZeros d := by
  ext1 i hi
  rw [getElem_overwrite, getElem_padZeros, getElem_zeros64]
  split
  · rfl
  · rw [List.getD_eq_default _ _ (by omega)]

/-- With no valid byte and a zero tail the whole partial buffer is zero (R29). -/
theorem State.ZeroTail.buf_of_empty {s : State} (h : s.ZeroTail) (empty : s.plen.val = 0) :
    s.buf = zeros64 := by
  ext1 i hi
  rw [getElem_zeros64]
  exact h ⟨i, hi⟩ (by rw [Fin.le_def]; omega)

/-- With no valid byte and a zero tail there is nothing to clear (R29). -/
theorem State.ZeroTail.emptyBuffer_eq {s : State} (h : s.ZeroTail) (empty : s.plen.val = 0) :
    emptyBuffer s = s := by
  have no_byte : 0 = s.plen := Fin.ext empty.symm
  rw [emptyBuffer, ← h.buf_of_empty empty, no_byte]

/-- Phase 2 takes a whole block from the front and goes on with the rest (R144). -/
theorem absorbAligned_of_block (P : Params) {d : List Byte} (long : 64 ≤ d.length) (s : State) :
    absorbAligned P d s
      = absorbAligned P (d.drop 64) (compressBlock P (padZeros (d.take 64)) s) := by
  have blocks : d.length / 64 = (d.drop 64).length / 64 + 1 := by
    rw [List.length_drop]
    omega
  rw [absorbAligned, absorbAligned, blocks, absorbBlocks, List.drop_drop, Nat.mul_succ,
    Nat.add_comm 64]

theorem compressBlock_emptyBuffer (P : Params) (m : Bytes64) (s : State) :
    compressBlock P m (emptyBuffer s) = emptyBuffer (compressBlock P m s) := rfl

section ZeroTail
variable (P : Params) {d : List Byte} {s : State} (tail : s.ZeroTail)
include tail

/-- Over a zero tail, a chunk that does not fill the partial buffer joins it, whether or not the buffer
held a byte (R143, R145). -/
theorem absorb_of_room (fits : s.plen.val + d.length < 64) :
    absorb P d s = { s with
      buf := overwrite s.buf s.plen.val d
      plen := Fin.ofNat 64 (s.plen.val + d.length) } := by
  rcases Nat.eq_zero_or_pos s.plen.val with empty | nonempty
  · rw [empty, Nat.zero_add] at fits
    rw [absorb_of_empty P empty, absorbAligned_of_short P fits,
      keepRemainder_of_emptyBuffer d (tail.emptyBuffer_eq empty), loadPartial,
      tail.buf_of_empty empty, empty, overwrite_zeros64, Nat.zero_add]
  · exact absorb_of_fits P nonempty fits

/-- Over a zero tail, a chunk that fills the partial buffer completes a block, whether or not the buffer
held a byte, and the rest is absorbed from an empty buffer (R143, R144). -/
theorem absorb_of_full (fills : 64 ≤ s.plen.val + d.length) :
    absorb P d s = absorb P (d.drop (64 - s.plen.val)) (emptyBuffer
      (compressBlock P (overwrite s.buf s.plen.val (d.take (64 - s.plen.val))) s)) := by
  rw [absorb_of_empty P (s := emptyBuffer _) rfl]
  rcases Nat.eq_zero_or_pos s.plen.val with empty | nonempty
  · rw [empty, Nat.zero_add] at fills
    rw [absorb_of_empty P empty, absorbAligned_of_block P fills, empty, tail.buf_of_empty empty,
      overwrite_zeros64, ← compressBlock_emptyBuffer, tail.emptyBuffer_eq empty]
  · exact absorb_of_fills P nonempty fills

end ZeroTail

section AbsorbByte
variable (P : Params) (b : Byte) {s : State}

theorem absorbByte_of_last (last : s.plen.val + 1 = 64) : absorbByte P s b
    = emptyBuffer (compressBlock P (s.buf.set s.plen.val b) s) := if_pos last

theorem absorbByte_of_room (room : s.plen.val + 1 ≠ 64) : absorbByte P s b
    = { s with buf := s.buf.set s.plen.val b, plen := Fin.ofNat 64 (s.plen.val + 1) } := if_neg room

theorem absorbByte_plen_of_room (room : s.plen.val + 1 ≠ 64) :
    (absorbByte P s b).plen.val = s.plen.val + 1 := by
  have below := s.plen.isLt
  rw [absorbByte_of_room P b room]
  exact Nat.mod_eq_of_lt (by omega)

theorem absorbByte_buf_of_room (room : s.plen.val + 1 ≠ 64) :
    (absorbByte P s b).buf = s.buf.set s.plen.val b := by
  rw [absorbByte_of_room P b room]

theorem zeroTail_absorbByte (tail : s.ZeroTail) : (absorbByte P s b).ZeroTail := by
  by_cases last : s.plen.val + 1 = 64
  · rw [absorbByte_of_last P b last]
    exact zeroTail_of_empty rfl
  · intro i beyond
    rw [Fin.le_def, absorbByte_plen_of_room P b last] at beyond
    rw [absorbByte_buf_of_room P b last]
    show (s.buf.set s.plen.val b)[i.val] = 0x00#8
    rw [Vector.getElem_set_ne _ _ (by omega)]
    exact tail i (by rw [Fin.le_def]; omega)

/-- Absorption takes its first byte as one turn of the byte-serial loop and the others after it. -/
theorem absorb_cons (d : List Byte) (tail : s.ZeroTail) :
    absorb P (b :: d) s = absorb P d (absorbByte P s b) := by
  have length : (b :: d).length = d.length + 1 := rfl
  by_cases last : s.plen.val + 1 = 64
  · have one_left : 64 - s.plen.val = 1 := by omega
    rw [absorb_of_full P tail (by omega), absorbByte_of_last P b last, one_left]
    simp [overwrite_cons]
  · have next_tail := zeroTail_absorbByte P b tail
    have next_plen := absorbByte_plen_of_room P b last
    have next_buf := absorbByte_buf_of_room P b last
    rcases Nat.lt_or_ge (s.plen.val + (b :: d).length) 64 with fits | fills
    · have same_end : s.plen.val + 1 + d.length = s.plen.val + (b :: d).length := by omega
      rw [absorb_of_room P tail fits, absorb_of_room P next_tail (by omega), next_plen, next_buf,
        same_end, overwrite_cons, absorbByte_of_room P b last]
    · have one_less : 64 - s.plen.val = 64 - (s.plen.val + 1) + 1 := by omega
      rw [absorb_of_full P tail fills, absorb_of_full P next_tail (by omega), next_plen, next_buf,
        one_less, List.take_succ_cons, List.drop_succ_cons, overwrite_cons,
        absorbByte_of_room P b last]
      rfl

end AbsorbByte

/-- Settles O27, by induction on the byte string: every turn of the loop keeps the zero tail. -/
theorem absorbIsByteSerial : Obligations.AbsorbIsByteSerial := by
  intro P d s tail
  induction d generalizing s with
  | nil => exact absorb_nil P s
  | cons b d ih =>
    rw [absorb_cons P b d tail, ih _ (zeroTail_absorbByte P b tail)]
    rfl

/-- Settles O28: the byte-serial loop over joined chunks is the loop over the one and then the other. -/
theorem absorptionIgnoresChunking : Obligations.AbsorptionIgnoresChunking := by
  intro P d1 d2 s tail
  rw [absorbIsByteSerial P d2 _ (zeroTail_absorb P d1 tail), absorbIsByteSerial P d1 s tail,
    absorbIsByteSerial P (d1 ++ d2) s tail, absorbSerial_append]

/-- Settles O23: the completed UPDATE absorbs all its collected bytes, as the byte-serial loop does. -/
theorem lastByteOfAnUpdateAbsorbs : Obligations.LastByteOfAnUpdateAbsorbs := by
  intro w s count col busy last tail
  rw [exec_data_of_last busy last.le, ← dataByte_eq]
  exact congrArg Host.Outcome.next (absorbIsByteSerial _ _ _ tail)

end Sys2Proof.Machine

/-! ## A whole message in chunks (R142, R149, R151, R170 to R173) -/

namespace Sys2Proof.Machine

theorem execAll_append_of_next {is js : List Instr} {s t : State} (h : execAll is s = .next t) :
    execAll (is ++ js) s = execAll js t := by
  induction is generalizing s with
  | nil =>
    injection h with h
    rw [List.nil_append, h]
  | cons i is ih =>
    obtain ⟨u, performed⟩ := exec_answers i s
    rw [execAll_cons_of_next performed] at h
    rw [List.cons_append, execAll_cons_of_next performed, ih h]

/-- UPDATEs in ACTIVE absorb the low bytes of all their DATA words, joined (R142, R149). -/
theorem execAll_updates (chunks : List (List Word)) {s : State}
    (bounded : ∀ c ∈ chunks, c.length < 16777216) (active : s.lifecycle = .active)
    (idle : s.pend = none) (tail : s.ZeroTail) :
    execAll (chunks.flatMap updateInstrs) s
      = .next (absorb Config.params (chunks.flatten.map dataByte) s) := by
  induction chunks generalizing s with
  | nil => simp
  | cons c chunks ih =>
    have frame := absorb_frame Config.params (c.map dataByte) s
    have first := updateWithItsPayloadAbsorbsIt c s (bounded c List.mem_cons_self) active idle
    have others := ih (fun c' mem => bounded c' (List.mem_cons_of_mem c mem))
      (frame.lifecycle_eq.trans active) (frame.pend_eq.trans idle) (zeroTail_absorb _ _ tail)
    rw [List.flatMap_cons, execAll_append_of_next first, others,
      absorptionIgnoresChunking _ _ _ _ tail, List.flatten_cons, List.map_append]

section WholeMessage
variable (P : Params) (v : Variant) (d : List Byte) (s : State)

/-- After INIT and a message, LEN is the message's length in bits (R27, R147). -/
theorem absorb_initContext_len :
    (absorb P d (initContext P v s)).len = BitVec.ofNat 512 (8 * d.length) := by
  rw [absorb_len, State.len, initContext_n, initContext_plen]
  simp

/-- FINAL leaves LEN as it was: the buffered bits move into the counter (R27, R172). -/
theorem finalDigest_len : (finalDigest P s).len = s.len := by
  rw [State.len, finalDigest_plen, finalDigest_n, State.len]
  simp

/-- INIT, a message and FINAL give the digest of the reference description (R146, R151, R170 to R173). -/
theorem finalDigest_absorb_dig :
    (finalDigest P (absorb P d (initContext P v s))).dig = streebog P v d := by
  obtain ⟨h, sigma, n, buf, plen⟩ := blocksAreKeyedByPosition P v d s
  have var : (absorb P d (initContext P v s)).var = v := (absorb_frame P d (initContext P v s)).var_eq
  have padded : pad (absorb P d (initContext P v s)).buf (absorb P d (initContext P v s)).plen.val
      = paddedBlock d := by
    rw [buf, plen, ← length_lastBytes, pad_padZeros, paddedBlock]
  have bits : (finalDigest P (absorb P d (initContext P v s))).n = BitVec.ofNat 512 (8 * d.length) :=
    absorb_initContext_len P v d s
  rw [finalDigest_dig, finalDigest_h, bits, finalDigest_sigma, padded, h, sigma, n, var]
  rfl

end WholeMessage

/-- Settles O37: the chunks absorb the message as one, and FINAL gives its digest. -/
theorem hashingAMessageGivesItsDigest : Obligations.HashingAMessageGivesItsDigest := by
  intro v chunks s bounded
  have frame := absorb_frame Config.params (chunks.flatten.map dataByte)
    (initContext Config.params v s)
  have fed := execAll_updates chunks (s := initContext Config.params v s) bounded rfl rfl
    (zeroTail_of_empty rfl)
  refine ⟨_, ?_, finalDigest_absorb_dig Config.params v (chunks.flatten.map dataByte) s, rfl,
    frame.err_eq, frame.errcode_eq, ?_⟩
  · rw [execAll_cons_of_next (exec_init v s), execAll_append_of_next fed,
      execAll_cons_of_next (exec_final_of_active frame.pend_eq frame.lifecycle_eq), execAll_nil]
  · rw [finalDigest_len, absorb_initContext_len, List.length_map]

end Sys2Proof.Machine

/-! ## The padding's marker bit, the output window and FINAL (R170 to R173) -/

namespace Sys2Proof.Machine

/-! ### The marker byte (R171) -/

/-- Writing a byte where a byte list holds zero adds it at its place in the integer (R10). -/
theorem natOfBytes_set_of_zero (b : Byte) {d : List Byte} {i : Nat} (hi : i < d.length)
    (zero : d[i] = 0x00#8) : natOfBytes (d.set i b) = natOfBytes d + b.toNat * 2 ^ (8 * i) := by
  induction d generalizing i with
  | nil => exact absurd hi (Nat.not_lt_zero i)
  | cons a d ih =>
    cases i with
    | zero =>
      have head : a = 0x00#8 := zero
      simp [head, Nat.add_comm]
    | succ i =>
      have rest := ih (Nat.lt_of_succ_lt_succ hi) zero
      rw [List.set_cons_succ, natOfBytes_cons, natOfBytes_cons, rest]
      ring

theorem one_shiftLeft_eq_ofNat (w k : Nat) : 1#w <<< k = BitVec.ofNat w (2 ^ k) := by
  refine BitVec.eq_of_toNat_eq ?_
  rw [BitVec.toNat_shiftLeft, BitVec.toNat_ofNat, BitVec.toNat_ofNat, Nat.shiftLeft_eq,
    Nat.mod_mul_mod, Nat.one_mul]

/-- Setting a zero byte of a 64-byte value to 0x01 adds `2^(8*i)` to its integer (R10). -/
theorem int512_set_one_of_zero {B : Bytes64} {i : Nat} (hi : i < 64) (zero : B[i] = 0x00#8) :
    int512 (B.set i 0x01#8) = int512 B + 1#512 <<< (8 * i) := by
  have raised := natOfBytes_set_of_zero 0x01#8 (d := B.toList) (i := i) (by simpa using hi)
    (by simpa using zero)
  rw [int512, int512, Vector.toList_set, raised, one_shiftLeft_eq_ofNat, ← BitVec.ofNat_add]
  simp

/-- Over a zero tail, padding sets byte PLEN of the buffer to the marker (R29, R171). -/
theorem State.ZeroTail.pad_eq {s : State} (tail : s.ZeroTail) :
    pad s.buf s.plen.val = s.buf.set s.plen.val 0x01#8 := by
  ext1 i hi
  rw [getElem_pad, Vector.getElem_set]
  rcases Nat.lt_trichotomy i s.plen.val with below | marker | above
  · rw [if_pos below, if_neg below.ne']
  · rw [if_neg marker.not_lt, if_pos marker, if_pos marker.symm]
  · have unused : s.buf[i] = 0x00#8 := tail ⟨i, hi⟩ above.le
    rw [if_neg above.not_gt, if_neg above.ne', if_neg above.ne, unused]

/-- Settles O34: byte PLEN is the marker, and over a zero tail it was zero before. -/
theorem paddingSetsTheMarkerBit : Obligations.PaddingSetsTheMarkerBit := by
  refine ⟨fun B plen i => ?_, fun s tail => ⟨tail.pad_eq, ?_⟩⟩
  · simp only [Fin.getElem_fin, getElem_pad, Fin.lt_def, Fin.ext_iff]
  · rw [tail.pad_eq]
    exact int512_set_one_of_zero s.plen.isLt (tail s.plen (Nat.le_refl _))

/-! ### The output window (R173) -/

/-- The upper 32 bytes moved down are the integer's upper 256 bits moved down (R10, R173). -/
theorem int512_upperHalf (h : Bytes64) : int512 (upperHalf h) = int512 h >>> 256 := by
  refine BitVec.eq_of_getLsbD_eq fun k hk => ?_
  rw [getLsbD_int512 _ _ hk, getElem_upperHalf, BitVec.getLsbD_ushiftRight]
  by_cases low : k < 256
  · have byte : (256 + k) / 8 = k / 8 + 32 := by omega
    have bit : (256 + k) % 8 = k % 8 := by omega
    rw [dif_pos (by omega), getLsbD_int512 _ _ (by omega)]
    simp only [byte, bit]
  · rw [dif_neg (by omega), BitVec.getLsbD_zero, BitVec.getLsbD_of_ge _ _ (by omega)]

/-- Settles O35: the window of V256 is the upper half, byte by byte and as an integer. -/
theorem windowIsTheUpperHalf : Obligations.WindowIsTheUpperHalf := by
  refine fun h => ⟨rfl, fun i => ?_, int512_upperHalf h⟩
  rw [window, Fin.getElem_fin, getElem_upperHalf]
  split
  · rw [List.getD_eq_getElem _ _ (by simp; omega), Vector.getElem_toList]
  · rw [List.getD_eq_default _ _ (by simp; omega)]

/-! ### FINAL (R170, R172) -/

/-- Settles O33: FINAL is accepted, and its three passes use the values from before. -/
theorem finalSelectsTheDigest : Obligations.FinalSelectsTheDigest :=
  fun _ active idle => exec_final_of_active idle active

end Sys2Proof.Machine

/-! ## LOADPART (R200, R201) -/

namespace Sys2Proof.Machine

/-- Loading no bytes empties the partial buffer (R143, R201). -/
theorem loadPartial_nil (s : State) : loadPartial [] s = emptyBuffer s := by
  rw [loadPartial, padZeros_nil]
  rfl

/-- An accepted LOADPART of a non-zero count becomes pending (R200). -/
theorem exec_loadpart_of_pos {k : Nat} {s : State} (idle : s.pend = none)
    (active : s.lifecycle = .active) (nonzero : k ≠ 0) :
    exec (.loadpart k) s = .next { s with pend := some ⟨.loadpart, k, []⟩ } := by
  rw [exec, execLoadpart, whenAccepted_of_active _ idle active, if_neg nonzero]

/-- An accepted LOADPART of no bytes empties the partial buffer at once (R200). -/
theorem exec_loadpart_zero {s : State} (idle : s.pend = none) (active : s.lifecycle = .active) :
    exec (.loadpart 0) s = .next (emptyBuffer s) := by
  rw [exec, execLoadpart, whenAccepted_of_active _ idle active, if_pos rfl, loadPartial_nil]

/-- Settles O21: an accepted LOADPART has collected nothing yet, so that it needs its whole count; with
a count of 0 there is nothing to wait for. -/
theorem loadpartBecomesPending : Obligations.LoadpartBecomesPending := by
  refine ⟨fun k s nonzero _ active idle => ?_, fun s active idle => exec_loadpart_zero idle active⟩
  exact ⟨_, exec_loadpart_of_pos idle active nonzero.ne', rfl, rfl, rfl, rfl⟩

end Sys2Proof.Machine

/-! ## The error report (R220, R222, R224, R225) -/

namespace Sys2Proof.Machine

/-- The first rejection since the last CLRERR or reset is recorded (R222). -/
theorem raiseError_of_cleared (e : ErrorCode) {s : State} (cleared : s.err = false) :
    raiseError e s = { s with err := true, errcode := errorNumber e } := by
  rw [raiseError_eq, if_pos cleared]

/-- A later rejection changes nothing (R222). -/
theorem raiseError_of_raised (e : ErrorCode) {s : State} (raised : s.err = true) :
    raiseError e s = s := by
  rw [raiseError_eq, if_neg (ne_false_of_eq_true raised), ← raised]

/-- Settles O11, by the two values of ERR; the numbers are R221's. -/
theorem raiseErrorKeepsTheFirst : Obligations.RaiseErrorKeepsTheFirst := by
  refine ⟨fun e s cleared => ?_, fun e s raised => raiseError_of_raised e raised⟩
  rw [raiseError_of_cleared e cleared]
  cases e <;> rfl

/-- Only a rejection, reset and CLRERR write the error report (R222, R225, R250). -/
theorem AccessEffect.report_cases {a : Access} {s t : State} (effect : AccessEffect s a t) :
    (∃ e, t = raiseError e s) ∨
    (a = .reset ∧ t = blockReset s) ∨
    (a = lineInstr .clrerr ∧ t = { s with err := false, errcode := 0#4 }) ∨
    (t.err = s.err ∧ t.errcode = s.errcode) := by
  cases effect with
  | rejected _ _ e => exact .inl ⟨e, rfl⟩
  | reset => exact .inr (.inl ⟨rfl, rfl⟩)
  | clrerr => exact .inr (.inr (.inl ⟨rfl, rfl⟩))
  | completed w p =>
    have frame := completePending_frame Config.params p.op (p.collected ++ [dataByte w])
      { s with pend := none }
    exact .inr (.inr (.inr ⟨frame.err_eq, frame.errcode_eq⟩))
  | read | ignored | init | started | emptied | finalized | collected =>
    exact .inr (.inr (.inr ⟨rfl, rfl⟩))

/-- Settles O14: ERR becomes 1 by a rejection alone, which writes the error report alone. -/
theorem rejectionLeavesTheContext : Obligations.RejectionLeavesTheContext := by
  intro a s t performed cleared raised
  rcases (accessEffect_of_next performed).report_cases with
    ⟨e, rfl⟩ | ⟨-, rfl⟩ | ⟨-, rfl⟩ | ⟨kept, -⟩
  · exact sameContext_raiseError e s
  · exact nomatch raised
  · exact nomatch raised
  · exact nomatch raised.symm.trans (kept.trans cleared)

/-- Settles O15: a rejection while ERR is 1 changes nothing, and CLRERR and reset are excluded. -/
theorem errorReportIsSticky : Obligations.ErrorReportIsSticky := by
  intro a s t performed raised noReset noClrerr
  rcases (accessEffect_of_next performed).report_cases with
    ⟨e, rfl⟩ | ⟨isReset, -⟩ | ⟨isClrerr, -⟩ | ⟨keptErr, keptCode⟩
  · rw [raiseError_of_raised e raised]
    exact ⟨raised, rfl⟩
  · exact absurd isReset noReset
  · exact absurd isClrerr noClrerr
  · exact ⟨keptErr.trans raised, keptCode⟩

end Sys2Proof.Machine

/-! ## The reset input (R250, R251) -/

namespace Sys2Proof.Machine

/-- The reset input is always taken: it resets the block in one access (R250). -/
theorem performAccess_reset (s : State) : performAccess .reset s = .next (blockReset s) := rfl

/-- A reset block holds the reset values of R37, whatever it held before. -/
theorem sameBlock_blockReset (s : State) : SameBlock State.reset (blockReset s) := rfl

/-- Settles O47: the block is that of R37, and the host's side is taken over from the state before. -/
theorem resetAccessResetsTheBlock : Obligations.ResetAccessResetsTheBlock :=
  fun s => ⟨blockReset s, performAccess_reset s, sameBlock_blockReset s, rfl, rfl, rfl⟩

end Sys2Proof.Machine
